-- ==== Sys2Proof/Word.lean ====
section
/-! DEFINITION. The widths of the machine's values (spec/00_scope.md R3, 10_state.md R10 to R21).
Every value is unsigned; nothing is ever sign-extended (00_scope.md section 5). -/

namespace Sys2Proof

/-- An 8-bit value: a general register, DT, ST, one byte of Memory. -/
abbrev Byte := BitVec 8

/-- A 16-bit value: an instruction word, I, PC, a return address. -/
abbrev Word := BitVec 16

/-- The 4-bit index of a general register (30_encoding.md R72: fields x and y). -/
abbrev Reg := BitVec 4

/-- A 4-bit number: a nibble of the word, the field n, a hex key. -/
abbrev Nibble := BitVec 4

/-- The 12-bit address operand (30_encoding.md R72: field addr). -/
abbrev Addr := BitVec 12

/-- The register index of VF, the flag register (10_state.md R11, R12). -/
abbrev vf : Reg := 15

end Sys2Proof
end

