-- ==== Sys2Proof/Config.lean ====
section
/-! DEFINITION. The free values: what the host answers at a port when the state does not already hold the answer.
The spec leaves each of them unconstrained (93_implementation_defined.md U4 to U7: "any value"), so each is an opaque
constant with no body: nothing in Lean can evaluate it or prove a value of it. Its argument is the plain counter
`ports.freeCount` of the state, which every draw advances, so that two draws share no argument
(notes/assumptions/7.md). The parameters with a canonical value (00_scope.md R3) stand in Machine/Params.lean. -/

namespace Sys2Proof

/-- The byte a call of `Random.byte()` answers (20_memory.md R62: all 256 values at every call). -/
opaque Config.randomByte : Nat → Byte

/-- The bit a call of `Input.is_key_down` answers (20_memory.md R58) when the host's keys are not in the state, or
the key number is above 15 (R58: "a model must let it be either bit"). -/
opaque Config.keyDown : Nat → Bool

/-- The answer of a call of `Input.poll_key()`: none, or a key 0 to 15 (20_memory.md R59). -/
opaque Config.polledKey : Nat → Option Nibble

/-- The collision bit an abstract Display answers to a call of `draw_byte` (20_memory.md R56, U7). -/
opaque Config.collision : Nat → Bool

end Sys2Proof
end

