-- ==== Sys2Proof/Syntax.lean ====
section
/-! DEFINITION. The instructions: one constructor per row of spec/opcode_table.json, in the table's order
(30_encoding.md R76). The operands have the widths of R72, so that every term is an instruction of the machine. -/

namespace Sys2Proof

/-- The 34 instructions. An unrecognised word (R79) is no row of the table and no constructor: the decoder answers
it under a name of its own and the cycle runs it. -/
inductive Instr where
  /-- `00E0`, CLS: clear the display (44_io.md R160). -/
  | cls
  /-- `00EE`, RET: return from subroutine (40_flow.md R100). -/
  | ret
  /-- `1nnn`, JP addr (R101). -/
  | jpAddr (addr : Addr)
  /-- `2nnn`, CALL addr (R102). -/
  | callAddr (addr : Addr)
  /-- `3xkk`, SE Vx,byte (R103). -/
  | seVxByte (x : Reg) (byte : Byte)
  /-- `4xkk`, SNE Vx,byte (R104). -/
  | sneVxByte (x : Reg) (byte : Byte)
  /-- `5xy0`, SE Vx,Vy (R105). -/
  | seVxVy (x y : Reg)
  /-- `6xkk`, LD Vx,byte (41_alu.md R121). -/
  | ldVxByte (x : Reg) (byte : Byte)
  /-- `7xkk`, ADD Vx,byte (R122). -/
  | addVxByte (x : Reg) (byte : Byte)
  /-- `8xy0`, LD Vx,Vy (R123). -/
  | ldVxVy (x y : Reg)
  /-- `8xy1`, OR Vx,Vy (R124). -/
  | orVxVy (x y : Reg)
  /-- `8xy2`, AND Vx,Vy (R125). -/
  | andVxVy (x y : Reg)
  /-- `8xy3`, XOR Vx,Vy (R126). -/
  | xorVxVy (x y : Reg)
  /-- `8xy4`, ADD Vx,Vy (R127). -/
  | addVxVy (x y : Reg)
  /-- `8xy5`, SUB Vx,Vy (R128). -/
  | subVxVy (x y : Reg)
  /-- `8xy6`, SHR Vx (R129); the field y is part of the word and ignored (30_encoding.md R78). -/
  | shrVx (x y : Reg)
  /-- `8xy7`, SUBN Vx,Vy (R130). -/
  | subnVxVy (x y : Reg)
  /-- `8xyE`, SHL Vx (R131); the field y is part of the word and ignored (30_encoding.md R78). -/
  | shlVx (x y : Reg)
  /-- `9xy0`, SNE Vx,Vy (40_flow.md R106). -/
  | sneVxVy (x y : Reg)
  /-- `Annn`, LD I,addr (42_index_memory.md R140). -/
  | ldIAddr (addr : Addr)
  /-- `Bnnn`, JP V0,addr (40_flow.md R108). -/
  | jpV0Addr (addr : Addr)
  /-- `Cxkk`, RND Vx,byte (44_io.md R161). -/
  | rndVxByte (x : Reg) (byte : Byte)
  /-- `Dxyn`, DRW Vx,Vy,n (R162). -/
  | drwVxVyN (x y : Reg) (n : Nibble)
  /-- `Ex9E`, SKP Vx (R163). -/
  | skpVx (x : Reg)
  /-- `ExA1`, SKNP Vx (R164). -/
  | sknpVx (x : Reg)
  /-- `Fx07`, LD Vx,DT (43_timers.md R150). -/
  | ldVxDt (x : Reg)
  /-- `Fx0A`, LD Vx,K (44_io.md R165). -/
  | ldVxK (x : Reg)
  /-- `Fx15`, LD DT,Vx (43_timers.md R151). -/
  | ldDtVx (x : Reg)
  /-- `Fx18`, LD ST,Vx (R152). -/
  | ldStVx (x : Reg)
  /-- `Fx1E`, ADD I,Vx (42_index_memory.md R141). -/
  | addIVx (x : Reg)
  /-- `Fx29`, LD F,Vx (R142). -/
  | ldFVx (x : Reg)
  /-- `Fx33`, LD B,Vx (R143). -/
  | ldBVx (x : Reg)
  /-- `Fx55`, LD [I],Vx (R144). -/
  | ldMemVx (x : Reg)
  /-- `Fx65`, LD Vx,[I] (R145). -/
  | ldVxMem (x : Reg)
  deriving DecidableEq, Repr

end Sys2Proof
end

