-- ==== Sys2Proof/WellFormed.lean ====
section
/-! DEFINITION. Which operand numbers an instruction may carry (30_encoding.md R72, R81). The checks are on plain
numbers, as an assembler meets them; an `Instr` holds operands of the right width, so that every `Instr` passes
(Laws/PerInstr.lean proves it constructor by constructor). -/

namespace Sys2Proof

/-- A register number V0 to VF: 0 to 15 (10_state.md R10: no index of the field is illegal). -/
def reg? (n : Nat) : Option Reg := if n < 16 then some (BitVec.ofNat 4 n) else none

/-- An 8-bit immediate (field byte). -/
def byte? (n : Nat) : Option Byte := if n < 256 then some (BitVec.ofNat 8 n) else none

/-- A 12-bit address operand (field addr). -/
def addr? (n : Nat) : Option Addr := if n < 4096 then some (BitVec.ofNat 12 n) else none

/-- A row count of DRW (field n). -/
def rows? (n : Nat) : Option Nibble := if n < 16 then some (BitVec.ofNat 4 n) else none

/-- Every operand of the instruction, read as a number, passes its field's check. -/
def wellFormed : Instr → Bool
  | .cls | .ret => true
  | .jpAddr a | .callAddr a | .ldIAddr a | .jpV0Addr a => addr? a.toNat == some a
  | .seVxByte x b | .sneVxByte x b | .ldVxByte x b | .addVxByte x b | .rndVxByte x b =>
    reg? x.toNat == some x && byte? b.toNat == some b
  | .seVxVy x y | .sneVxVy x y | .ldVxVy x y | .orVxVy x y | .andVxVy x y | .xorVxVy x y
  | .addVxVy x y | .subVxVy x y | .subnVxVy x y | .shrVx x y | .shlVx x y =>
    reg? x.toNat == some x && reg? y.toNat == some y
  | .drwVxVyN x y n => reg? x.toNat == some x && reg? y.toNat == some y && rows? n.toNat == some n
  | .skpVx x | .sknpVx x | .ldVxDt x | .ldVxK x | .ldDtVx x | .ldStVx x | .addIVx x | .ldFVx x
  | .ldBVx x | .ldMemVx x | .ldVxMem x => reg? x.toNat == some x

end Sys2Proof
end

