-- ==== Sys2Proof/Decode.lean ====
section
/-! DEFINITION. The decoder and, after it, the encoder (spec/30_encoding.md). Three bit patterns (00E0, 6xkk, 8xy4)
are the source's; the other 31 are the spec's general knowledge (93_implementation_defined.md G1; PRESUMED,
notes/assumptions/4.md). -/

namespace Sys2Proof

/-- What the decoder splits a word into (R73): the four nibbles and the five operand fields. -/
structure Fields where
  n3 : Nibble
  n2 : Nibble
  n1 : Nibble
  n0 : Nibble
  addr : Addr
  x : Reg
  y : Reg
  byte : Byte
  n : Nibble
  deriving DecidableEq, Repr

/-- The nibble split and the derived fields (R71, R72). -/
def splitWord (w : Word) : Fields where
  n3 := w.extractLsb' 12 4
  n2 := w.extractLsb' 8 4
  n1 := w.extractLsb' 4 4
  n0 := w.extractLsb' 0 4
  addr := w.extractLsb' 0 12
  x := w.extractLsb' 8 4
  y := w.extractLsb' 4 4
  byte := w.extractLsb' 0 8
  n := w.extractLsb' 0 4

/-- What a word selects (R73): one of the 34 instructions, or `UNRECOGNISED`. -/
inductive Decoded where
  | instr (i : Instr)
  | unrecognised
  deriving DecidableEq, Repr

/-- The words with N3 = 0: the whole word must be 00E0 or 00EE (R74). -/
def decodeFamily0 (w : Word) : Decoded :=
  match w.toNat with
  | 0x00E0 => .instr .cls
  | 0x00EE => .instr .ret
  | _ => .unrecognised

/-- The words with N3 = 8: N0 selects among nine instructions (R74). -/
def decodeFamily8 (f : Fields) : Decoded :=
  match f.n0.toNat with
  | 0x0 => .instr (.ldVxVy f.x f.y)
  | 0x1 => .instr (.orVxVy f.x f.y)
  | 0x2 => .instr (.andVxVy f.x f.y)
  | 0x3 => .instr (.xorVxVy f.x f.y)
  | 0x4 => .instr (.addVxVy f.x f.y)
  | 0x5 => .instr (.subVxVy f.x f.y)
  | 0x6 => .instr (.shrVx f.x f.y)
  | 0x7 => .instr (.subnVxVy f.x f.y)
  | 0xE => .instr (.shlVx f.x f.y)
  | _ => .unrecognised

/-- The words with N3 = E: the whole low byte selects (R75). -/
def decodeFamilyE (f : Fields) : Decoded :=
  match f.byte.toNat with
  | 0x9E => .instr (.skpVx f.x)
  | 0xA1 => .instr (.sknpVx f.x)
  | _ => .unrecognised

/-- The words with N3 = F: the whole low byte selects (R75). -/
def decodeFamilyF (f : Fields) : Decoded :=
  match f.byte.toNat with
  | 0x07 => .instr (.ldVxDt f.x)
  | 0x0A => .instr (.ldVxK f.x)
  | 0x15 => .instr (.ldDtVx f.x)
  | 0x18 => .instr (.ldStVx f.x)
  | 0x1E => .instr (.addIVx f.x)
  | 0x29 => .instr (.ldFVx f.x)
  | 0x33 => .instr (.ldBVx f.x)
  | 0x55 => .instr (.ldMemVx f.x)
  | 0x65 => .instr (.ldVxMem f.x)
  | _ => .unrecognised

/-- The selection of R74: N3 first, then what its family tests. -/
def decodeWord (w : Word) : Decoded :=
  let f := splitWord w
  match f.n3.toNat with
  | 0x0 => decodeFamily0 w
  | 0x1 => .instr (.jpAddr f.addr)
  | 0x2 => .instr (.callAddr f.addr)
  | 0x3 => .instr (.seVxByte f.x f.byte)
  | 0x4 => .instr (.sneVxByte f.x f.byte)
  | 0x5 => if f.n0 = 0 then .instr (.seVxVy f.x f.y) else .unrecognised
  | 0x6 => .instr (.ldVxByte f.x f.byte)
  | 0x7 => .instr (.addVxByte f.x f.byte)
  | 0x8 => decodeFamily8 f
  | 0x9 => if f.n0 = 0 then .instr (.sneVxVy f.x f.y) else .unrecognised
  | 0xA => .instr (.ldIAddr f.addr)
  | 0xB => .instr (.jpV0Addr f.addr)
  | 0xC => .instr (.rndVxByte f.x f.byte)
  | 0xD => .instr (.drwVxVyN f.x f.y f.n)
  | 0xE => decodeFamilyE f
  | _ => decodeFamilyF f

/-- The word of two bytes, the first being the high one (20_memory.md R46). -/
def joinBytes (hi lo : Byte) : Word := hi ++ lo

/-- The two bytes of a word as Memory holds them, high byte first (20_memory.md R46). -/
def wordBytes (w : Word) : List Byte := [w.extractLsb' 8 8, w.extractLsb' 0 8]

/-- Why bytes hold no instruction of the table. -/
inductive DecodeReject where
  /-- Fewer than the two bytes of a word. -/
  | truncated
  /-- The word matches no row of R76; executing it is the no-operation of R79. -/
  | unrecognised (w : Word)
  deriving DecidableEq, Repr

/-- The instruction at the head of a list of bytes and the bytes after it, or why there is none. -/
def decodeBytes : List Byte → Except DecodeReject (Instr × List Byte)
  | hi :: lo :: rest =>
    match decodeWord (joinBytes hi lo) with
    | .instr i => .ok (i, rest)
    | .unrecognised => .error (.unrecognised (joinBytes hi lo))
  | _ => .error .truncated

/-- The word of an instruction, nibbles as the patterns of R76 write them, most significant first. -/
def encodeWord : Instr → Word
  | .cls => 0x00E0
  | .ret => 0x00EE
  | .jpAddr a => 0x1#4 ++ a
  | .callAddr a => 0x2#4 ++ a
  | .seVxByte x b => 0x3#4 ++ x ++ b
  | .sneVxByte x b => 0x4#4 ++ x ++ b
  | .seVxVy x y => 0x5#4 ++ x ++ y ++ 0x0#4
  | .ldVxByte x b => 0x6#4 ++ x ++ b
  | .addVxByte x b => 0x7#4 ++ x ++ b
  | .ldVxVy x y => 0x8#4 ++ x ++ y ++ 0x0#4
  | .orVxVy x y => 0x8#4 ++ x ++ y ++ 0x1#4
  | .andVxVy x y => 0x8#4 ++ x ++ y ++ 0x2#4
  | .xorVxVy x y => 0x8#4 ++ x ++ y ++ 0x3#4
  | .addVxVy x y => 0x8#4 ++ x ++ y ++ 0x4#4
  | .subVxVy x y => 0x8#4 ++ x ++ y ++ 0x5#4
  | .shrVx x y => 0x8#4 ++ x ++ y ++ 0x6#4
  | .subnVxVy x y => 0x8#4 ++ x ++ y ++ 0x7#4
  | .shlVx x y => 0x8#4 ++ x ++ y ++ 0xE#4
  | .sneVxVy x y => 0x9#4 ++ x ++ y ++ 0x0#4
  | .ldIAddr a => 0xA#4 ++ a
  | .jpV0Addr a => 0xB#4 ++ a
  | .rndVxByte x b => 0xC#4 ++ x ++ b
  | .drwVxVyN x y n => 0xD#4 ++ x ++ y ++ n
  | .skpVx x => 0xE#4 ++ x ++ 0x9E#8
  | .sknpVx x => 0xE#4 ++ x ++ 0xA1#8
  | .ldVxDt x => 0xF#4 ++ x ++ 0x07#8
  | .ldVxK x => 0xF#4 ++ x ++ 0x0A#8
  | .ldDtVx x => 0xF#4 ++ x ++ 0x15#8
  | .ldStVx x => 0xF#4 ++ x ++ 0x18#8
  | .addIVx x => 0xF#4 ++ x ++ 0x1E#8
  | .ldFVx x => 0xF#4 ++ x ++ 0x29#8
  | .ldBVx x => 0xF#4 ++ x ++ 0x33#8
  | .ldMemVx x => 0xF#4 ++ x ++ 0x55#8
  | .ldVxMem x => 0xF#4 ++ x ++ 0x65#8

/-- The bytes of an instruction as Memory holds them (R70: two, high byte first). -/
def encode (i : Instr) : List Byte := wordBytes (encodeWord i)

/-- One row of the opcode map of R76: a word selects the row iff its masked bits equal the pattern. -/
structure OpcodeRow where
  mask : Word
  pattern : Word
  deriving DecidableEq, Repr

/-- The row of R76 an instruction belongs to: its mask and match columns. -/
def opcodeRow : Instr → OpcodeRow
  | .cls => ⟨0xFFFF, 0x00E0⟩
  | .ret => ⟨0xFFFF, 0x00EE⟩
  | .jpAddr _ => ⟨0xF000, 0x1000⟩
  | .callAddr _ => ⟨0xF000, 0x2000⟩
  | .seVxByte _ _ => ⟨0xF000, 0x3000⟩
  | .sneVxByte _ _ => ⟨0xF000, 0x4000⟩
  | .seVxVy _ _ => ⟨0xF00F, 0x5000⟩
  | .ldVxByte _ _ => ⟨0xF000, 0x6000⟩
  | .addVxByte _ _ => ⟨0xF000, 0x7000⟩
  | .ldVxVy _ _ => ⟨0xF00F, 0x8000⟩
  | .orVxVy _ _ => ⟨0xF00F, 0x8001⟩
  | .andVxVy _ _ => ⟨0xF00F, 0x8002⟩
  | .xorVxVy _ _ => ⟨0xF00F, 0x8003⟩
  | .addVxVy _ _ => ⟨0xF00F, 0x8004⟩
  | .subVxVy _ _ => ⟨0xF00F, 0x8005⟩
  | .shrVx _ _ => ⟨0xF00F, 0x8006⟩
  | .subnVxVy _ _ => ⟨0xF00F, 0x8007⟩
  | .shlVx _ _ => ⟨0xF00F, 0x800E⟩
  | .sneVxVy _ _ => ⟨0xF00F, 0x9000⟩
  | .ldIAddr _ => ⟨0xF000, 0xA000⟩
  | .jpV0Addr _ => ⟨0xF000, 0xB000⟩
  | .rndVxByte _ _ => ⟨0xF000, 0xC000⟩
  | .drwVxVyN _ _ _ => ⟨0xF000, 0xD000⟩
  | .skpVx _ => ⟨0xF0FF, 0xE09E⟩
  | .sknpVx _ => ⟨0xF0FF, 0xE0A1⟩
  | .ldVxDt _ => ⟨0xF0FF, 0xF007⟩
  | .ldVxK _ => ⟨0xF0FF, 0xF00A⟩
  | .ldDtVx _ => ⟨0xF0FF, 0xF015⟩
  | .ldStVx _ => ⟨0xF0FF, 0xF018⟩
  | .addIVx _ => ⟨0xF0FF, 0xF01E⟩
  | .ldFVx _ => ⟨0xF0FF, 0xF029⟩
  | .ldBVx _ => ⟨0xF0FF, 0xF033⟩
  | .ldMemVx _ => ⟨0xF0FF, 0xF055⟩
  | .ldVxMem _ => ⟨0xF0FF, 0xF065⟩

/-- The 16-bit word of an instruction whose bits are given as a number; bits above `nbits` are 0. -/
def tableWord (nbits w : Nat) : Word := BitVec.ofNat 16 (w % 2 ^ nbits)

/-- The instruction the decoder reads from the bits of a row of spec/opcode_table.json: the one 16-bit word, laid
out high byte first and given to `decodeBytes`. -/
def decodeTableWord (nbits w : Nat) : Option Instr :=
  match decodeBytes (wordBytes (tableWord nbits w)) with
  | .ok (i, _) => some i
  | .error _ => none

end Sys2Proof
end

