-- ==== Sys2Proof/Machine/Params.lean ====
section
/-! DEFINITION. The parameters of 00_scope.md R3 at the values of its column "this hardware". They stand in a file
directly under Machine/ so that a value a test shows wrong can be mended (notes/assumptions/16.md). -/

namespace Sys2Proof.Machine

/-- `MEM_SIZE`: bytes of Memory (20_memory.md R40). -/
def memSize : Nat := 4096

/-- `PROGRAM_BASE`: where a program is loaded and where PC starts (20_memory.md R43). -/
def programBase : Nat := 0x200

/-- `ROM_MAX`: the largest ROM image, 3584 bytes. -/
def romMax : Nat := memSize - programBase

/-- `STACK_USABLE`: the return addresses held at most (10_state.md R20; the spec's decision D8,
notes/assumptions/13.md). -/
def stackUsable : Nat := 15

/-- `TIMER_DIVIDER`: completed cycles per timer tick (60_exceptions.md R184). -/
def timerDivider : Nat := 8

/-- `GLYPH_BYTES` and the row pitch LD F,Vx uses: bytes of one glyph (20_memory.md R43). -/
def glyphBytes : Nat := 5

/-- `DISPLAY_W` of the reference Display (20_memory.md R57; G3). -/
def displayW : Nat := 64

/-- `DISPLAY_H` of the reference Display (20_memory.md R57; G3). -/
def displayH : Nat := 32

/-- `GLYPH_TABLE`: the 80 bytes at addresses 0 to 79 (20_memory.md R44; G2, PRESUMED by the spec itself,
notes/assumptions/3.md). -/
def glyphTable : List Byte :=
  [0xF0, 0x90, 0x90, 0x90, 0xF0,  0x20, 0x60, 0x20, 0x20, 0x70] ++
  [0xF0, 0x10, 0xF0, 0x80, 0xF0,  0xF0, 0x10, 0xF0, 0x10, 0xF0] ++
  [0x90, 0x90, 0xF0, 0x10, 0x10,  0xF0, 0x80, 0xF0, 0x10, 0xF0] ++
  [0xF0, 0x80, 0xF0, 0x90, 0xF0,  0xF0, 0x10, 0x20, 0x40, 0x40] ++
  [0xF0, 0x90, 0xF0, 0x90, 0xF0,  0xF0, 0x90, 0xF0, 0x10, 0xF0] ++
  [0xF0, 0x90, 0xF0, 0x90, 0x90,  0xE0, 0x90, 0xE0, 0x90, 0xE0] ++
  [0xF0, 0x80, 0x80, 0x80, 0xF0,  0xE0, 0x90, 0x90, 0x90, 0xE0] ++
  [0xF0, 0x80, 0xF0, 0x80, 0xF0,  0xF0, 0x80, 0xF0, 0x80, 0x80]

end Sys2Proof.Machine
end

