-- ==== Sys2Proof/Machine/State.lean ====
section
/-! DEFINITION. The state (10_state.md R29, with the attached Memory of 20_memory.md R40), the environment's side of
the ports as plain data, the reasons a host-level operation can stop, and the state after reset (R30, R200). -/

namespace Sys2Proof.Machine

/-- Host-level faults. NO STEP RAISES ONE: the faults of 60_exceptions.md are latched in the state and answered as a
next state in `Halted` (R174; notes/assumptions/1.md). -/
inductive Fault where
  /-- Raised by `loadProgram` alone, for an image longer than `ROM_MAX` (60_exceptions.md R173, 70_reset_and_hazards.md
  R202): nothing is copied and the machine never starts. Safe: it is the spec's own failure, reported before any
  cycle. -/
  | romTooLarge
  deriving DecidableEq, Repr

/-- Refusals. NO STEP AND NO OPERATION ANSWERS ONE: every instruction has its meaning. -/
inductive Refusal where
  /-- An instruction without a meaning would be rejected by this name in `exec`'s arm. No arm is. Safe: the model
  would stop where the hardware goes on. -/
  | notModelled (mnemonic : String)
  deriving DecidableEq, Repr

/-- `RUN` (10_state.md R26). -/
inductive Run where
  | running
  | awaitingKey
  | halted
  deriving DecidableEq, Repr

/-- What `FAULT` holds (60_exceptions.md R170, codes 0 to 4). `romTooLarge` and `unrecognizedOpcode` are in the
spec's table and never latched. -/
inductive Cause where
  | none
  | addressOutOfBounds
  | romTooLarge
  | unrecognizedOpcode
  | programCounterOutOfProgramRegion
  deriving DecidableEq, Repr

/-- The field `kind` of `FAULT_INFO` (60_exceptions.md R170, codes 0 to 4). -/
inductive AccessKind where
  | none
  | memRead
  | memWrite
  | stackPush
  | stackPop
  deriving DecidableEq, Repr

/-- `FAULT_INFO` (60_exceptions.md R170). -/
structure FaultInfo where
  kind : AccessKind
  addr : BitVec 17
  pc : Word
  deriving DecidableEq, Repr

/-- One call of a port with its answer (20_memory.md R54 to R62). -/
inductive PortCall where
  /-- `Display.clear()` (R55). -/
  | clear
  /-- `Display.draw_byte(x, y, b)` and its answer (R56). -/
  | drawByte (x : Byte) (y : BitVec 9) (b : Byte) (collision : Bool)
  /-- `Input.is_key_down(k)` and its answer (R58). -/
  | isKeyDown (k : Byte) (down : Bool)
  /-- `Input.poll_key()` and its answer (R59). -/
  | pollKey (answer : Option Nibble)
  /-- `Random.byte()` and its answer (R62). -/
  | randomByte (b : Byte)
  /-- `Audio.start_tone()` (R61). -/
  | startTone
  /-- `Audio.stop_tone()` (R61). -/
  | stopTone
  deriving DecidableEq, Repr

/-- The pixels of the reference Display (20_memory.md R57): bit `px` of `rows[py]` is `FB[px][py]`. -/
structure Screen where
  rows : Vector (BitVec 64) 32
  deriving DecidableEq, Repr

/-- The environment's side of the ports, as plain data. The fields `screen`, `keys`, `polls` and `randoms` hold the
answers the host has already settled; where they hold none the answer is a free value (20_memory.md R54: "A model
treats the answers as draws or as an oracle owned by the host"; notes/assumptions/7.md, 8.md, 9.md). -/
structure Ports where
  /-- The reference Display of R57, if it is attached; `none`: an abstract Display. -/
  screen : Option Screen
  /-- Which hex keys are down (bit `k` is key `k`), if the host has settled it (R58). -/
  keys : Option (BitVec 16)
  /-- The next answers of `poll_key`, oldest first (R59). -/
  polls : List (Option Nibble)
  /-- The next answers of `Random.byte`, oldest first (R62). -/
  randoms : List Byte
  /-- How many free values have been drawn. -/
  freeCount : Nat
  /-- Every port call made since reset, oldest first. -/
  trace : List PortCall
  deriving DecidableEq, Repr

/-- Memory: the bytes that differ from what an unlisted address reads as, by rising address
(`Memory.wf`, Machine/Ops.lean). -/
abbrev Memory := List Host.Cell

/-- The machine (10_state.md R29). -/
@[ext]
structure State where
  /-- V0 to VF (R10). -/
  v : Vector Byte 16
  /-- The address register (R15). -/
  i : Word
  /-- The delay timer (R16). -/
  dt : Byte
  /-- The sound timer (R17). -/
  st : Byte
  /-- The program counter (R18). -/
  pc : Word
  /-- The stack pointer: the next free slot (R20). -/
  sp : BitVec 4
  /-- The return addresses (R21). -/
  stack : Vector Word 16
  /-- The tick divider's counter (R27). -/
  tickcnt : BitVec 3
  /-- The run state (R26). -/
  run : Run
  /-- The cause latch (R28). -/
  fault : Cause
  /-- The detail of the latched fault (R28). -/
  faultInfo : FaultInfo
  /-- The status pulse `UNRECOGNISED` (R31): the last step executed an unrecognised word. -/
  unrecognised : Bool
  /-- Memory (20_memory.md R40). -/
  mem : Memory
  /-- The ports (20_memory.md R54). -/
  ports : Ports
  deriving DecidableEq, Repr

/-- `FAULT_INFO` while no fault has occurred: all fields 0 (R30). -/
def FaultInfo.zero : FaultInfo := ⟨.none, 0, 0⟩

/-- The ports right after the machine is made: nothing settled by the host, nothing called
(DESIGN CHOICE, notes/assumptions/8.md, 9.md). -/
def Ports.fresh : Ports := ⟨none, none, [], [], 0, []⟩

/-- The machine right after reset (10_state.md R30, 70_reset_and_hazards.md R200): PC at `PROGRAM_BASE`, `RUN`
running, Memory at its reset contents (nothing listed), every other register zero (the spec's decision D6,
notes/assumptions/5.md). -/
def State.reset : State where
  v := Vector.replicate 16 0
  i := 0
  dt := 0
  st := 0
  pc := BitVec.ofNat 16 programBase
  sp := 0
  stack := Vector.replicate 16 0
  tickcnt := 0
  run := .running
  fault := .none
  faultInfo := FaultInfo.zero
  unrecognised := false
  mem := []
  ports := Ports.fresh

end Sys2Proof.Machine
end

