-- ==== Sys2Proof/Machine/Ops.lean ====
section
/-! DEFINITION. The named operations every meaning is written with: the updates of one field, Memory and its bounds
check, the general registers, the stack, the one way a fault is taken, the advance of PC, and the reset command. -/

namespace Sys2Proof.Machine

/-! ### One update per field -/

def State.setPc (s : State) (w : Word) : State := { s with pc := w }
def State.setI (s : State) (w : Word) : State := { s with i := w }
def State.setDt (s : State) (b : Byte) : State := { s with dt := b }
/-- ST alone, without the audio edge: only `State.setST` (Machine/Ports.lean) calls it. -/
def State.setStRaw (s : State) (b : Byte) : State := { s with st := b }
def State.setTickcnt (s : State) (c : BitVec 3) : State := { s with tickcnt := c }
def State.setSp (s : State) (p : BitVec 4) : State := { s with sp := p }
def State.setRun (s : State) (r : Run) : State := { s with run := r }
def State.setPulse (s : State) (b : Bool) : State := { s with unrecognised := b }
def State.setMem (s : State) (m : Memory) : State := { s with mem := m }
def State.setPorts (s : State) (p : Ports) : State := { s with ports := p }

/-! ### General registers and stack slots (10_state.md R10, R21) -/

/-- `V[x]`. -/
def State.readV (s : State) (x : Reg) : Byte := s.v[x.toNat]'x.isLt

/-- `V[x] <- b`. -/
def State.writeV (s : State) (x : Reg) (b : Byte) : State := { s with v := s.v.set x.toNat b x.isLt }

/-- `STACK[p]`. -/
def State.readSlot (s : State) (p : BitVec 4) : Word := s.stack[p.toNat]'p.isLt

/-- `STACK[p] <- w`. -/
def State.writeSlot (s : State) (p : BitVec 4) (w : Word) : State :=
  { s with stack := s.stack.set p.toNat w p.isLt }

/-! ### Taking a fault (60_exceptions.md R174) -/

/-- `raise <c>(kind, addr)`: latch the cause and its detail with PC, enter `Halted`, and write nothing else. There is
no handler and no return (R177); the state is answered as the step's next state. -/
def State.raise (s : State) (c : Cause) (kind : AccessKind) (addr : Nat) : State :=
  { s with fault := c, faultInfo := ⟨kind, BitVec.ofNat 17 addr, s.pc⟩, run := .halted }

/-- The numeric code of a cause (60_exceptions.md R170). -/
def causeCode : Cause → BitVec 3
  | .none => 0
  | .addressOutOfBounds => 1
  | .romTooLarge => 2
  | .unrecognizedOpcode => 3
  | .programCounterOutOfProgramRegion => 4

/-- The numeric code of an access kind (60_exceptions.md R170). -/
def kindCode : AccessKind → BitVec 3
  | .none => 0
  | .memRead => 1
  | .memWrite => 2
  | .stackPush => 3
  | .stackPop => 4

/-! ### Memory (20_memory.md R40 to R49) -/

/-- What an unlisted address reads as: the reset contents (R30: the glyph table at 0 to 79, zero above;
notes/assumptions/2.md). -/
def unlisted (a : Nat) : Byte := glyphTable.getD a 0

/-- The byte at an address. -/
def Memory.read : Memory → Nat → Byte
  | [], a => unlisted a
  | (k, b) :: m, a => if a = k then b else Memory.read m a

/-- Store a byte, keeping the canonical form: a byte equal to what the unlisted address reads as is not listed. -/
def Memory.write : Memory → Nat → Byte → Memory
  | [], a, b => if b = unlisted a then [] else [(a, b)]
  | (k, c) :: m, a, b =>
    if a < k then (if b = unlisted a then (k, c) :: m else (a, b) :: (k, c) :: m)
    else if a = k then (if b = unlisted a then m else (a, b) :: m)
    else (k, c) :: Memory.write m a b

/-- Addresses at least `lo`, strictly rising, inside Memory, and no byte equal to what its unlisted address reads
as. -/
def Memory.wfFrom : Nat → Memory → Bool
  | _, [] => true
  | lo, (k, b) :: m => decide (lo ≤ k) && decide (k < memSize) && (b != unlisted k) && Memory.wfFrom (k + 1) m

/-- The canonical form. -/
def Memory.wf (m : Memory) : Bool := Memory.wfFrom 0 m

/-- The byte of the state's Memory at an address, with no bounds check. -/
def State.byteAt (s : State) (a : Nat) : Byte := s.mem.read a

/-- `MemRead(a, 1)` (R41): the byte, or the state a fault leaves. -/
def State.memRead (s : State) (a : Nat) : Except State Byte :=
  if memSize ≤ a then .error (s.raise .addressOutOfBounds .memRead a) else .ok (s.byteAt a)

/-- `MemWrite(a, 1, b)` (R42): the state after the store, or the state a fault leaves. -/
def State.memWrite (s : State) (a : Nat) (b : Byte) : Except State State :=
  if memSize ≤ a then .error (s.raise .addressOutOfBounds .memWrite a) else .ok (s.setMem (s.mem.write a b))

/-- Store bytes at ascending addresses, each checked on its own; a fault leaves the earlier ones stored (R48). -/
def State.storeBytes (s : State) (a : Nat) : List Byte → Except State State
  | [] => .ok s
  | b :: bs =>
    match s.memWrite a b with
    | .ok s1 => State.storeBytes s1 (a + 1) bs
    | .error h => .error h

/-- Load `V[0]` to `V[n-1]` from ascending addresses from `a`, each checked on its own; a fault leaves the earlier
registers loaded (R48). -/
def State.loadRegs (s : State) (a : Nat) : Nat → Except State State
  | 0 => .ok s
  | n + 1 =>
    match State.loadRegs s a n with
    | .error h => .error h
    | .ok s1 =>
      match s1.memRead (a + n) with
      | .error h => .error h
      | .ok b => .ok (s1.writeV (BitVec.ofNat 4 n) b)

/-! ### The stack (60_exceptions.md R180, R181) -/

/-- `Push(w)`: checked before any write. -/
def State.push (s : State) (w : Word) : Except State State :=
  if s.sp.toNat = stackUsable then .error (s.raise .addressOutOfBounds .stackPush s.sp.toNat)
  else .ok ((s.writeSlot s.sp w).setSp (s.sp + 1))

/-- `Pop()`: checked before any write; the slot keeps its value. -/
def State.pop (s : State) : Except State (Word × State) :=
  if s.sp.toNat = 0 then .error (s.raise .addressOutOfBounds .stackPop s.sp.toNat)
  else .ok (s.readSlot (s.sp - 1), s.setSp (s.sp - 1))

/-! ### The end of an execute phase (10_state.md R25) -/

/-- The normal advance: `PC <- PC + 2`. -/
def State.advance (s : State) : State := s.setPc (s.pc + 2)

/-- A skip instruction's PC (40_flow.md R107): `PC + 4` if the condition holds, else `PC + 2`. -/
def State.skipIf (s : State) (c : Bool) : State := s.setPc (if c then s.pc + 4 else s.pc + 2)

/-! ### The reset command (70_reset_and_hazards.md R200, R201) -/

/-- The reference Display with every pixel off. -/
def Screen.blank : Screen := ⟨Vector.replicate 32 0⟩

/-- A reset in mid-run: every element of the machine at its reset value, Memory included. The keys and the answers the
host has settled are the host's and stay; the pixels of an attached Display are off (20_memory.md R57: "all 0 at
reset"); no port is called, and the trace begins again (notes/assumptions/17.md). -/
def State.resetCore (s : State) : State :=
  State.reset.setPorts { s.ports with screen := s.ports.screen.map fun _ => Screen.blank, trace := [] }

end Sys2Proof.Machine
end

