-- ==== Sys2Proof/Machine/Flags.lean ====
section
/-! DEFINITION. The ALU of 41_alu.md R120 and every flag it computes (10_state.md R12). -/

namespace Sys2Proof.Machine

/-- A flag as VF holds it: the byte 0 or 1 (10_state.md R12). -/
def flagByte (f : Bool) : Byte := if f then 1 else 0

/-- Carry: the 9-bit sum exceeds 255 (R127). -/
def carry (a b : Byte) : Bool := decide (255 < a.toNat + b.toNat)

/-- No borrow: `a >= b` (R128, R130). -/
def noBorrow (a b : Byte) : Bool := decide (b.toNat ≤ a.toNat)

/-- The bit a right shift drops (R129). -/
def lowBit (a : Byte) : Bool := a.getLsbD 0

/-- The bit a left shift drops (R131). -/
def highBit (a : Byte) : Bool := a.getLsbD 7

/-- The function codes of the ALU (R120). -/
inductive AluFn where
  | move
  | or
  | and
  | xor
  | add
  | sub
  | shr
  | subn
  | shl
  /-- The adder of ADD Vx,byte, which writes no flag. -/
  | addNoFlag
  deriving DecidableEq, Repr

/-- The ALU: the result `r`, and the flag `f` if `fw = 1` (R120). `a` is `V[x]`, `b` is `V[y]` or the immediate. -/
def alu : AluFn → Byte → Byte → Byte × Option Bool
  | .move, _, b => (b, none)
  | .or, a, b => (a ||| b, none)
  | .and, a, b => (a &&& b, none)
  | .xor, a, b => (a ^^^ b, none)
  | .add, a, b => (a + b, some (carry a b))
  | .sub, a, b => (a - b, some (noBorrow a b))
  | .shr, a, _ => (a >>> 1, some (lowBit a))
  | .subn, a, b => (b - a, some (noBorrow b a))
  | .shl, a, _ => (a <<< 1, some (highBit a))
  | .addNoFlag, a, b => (a + b, none)

/-- The write-back: `V[x] <- r`, then VF if there is a flag, so that with `x = 15` the flag remains
(10_state.md R14). -/
def State.writeBack (s : State) (x : Reg) : Byte × Option Bool → State
  | (r, none) => s.writeV x r
  | (r, some f) => (s.writeV x r).writeV vf (flagByte f)

/-- One ALU instruction: operands read first (R133), write-back, normal advance. -/
def State.aluStep (s : State) (fn : AluFn) (x : Reg) (b : Byte) : State :=
  (s.writeBack x (alu fn (s.readV x) b)).advance

end Sys2Proof.Machine
end

