-- ==== Sys2Proof/Machine/Alu.lean ====
section
/-! DEFINITION. Register loads and the 8-bit ALU: spec/41_alu.md R121 to R131. -/

namespace Sys2Proof.Machine

/-- LD Vx,byte (R121). -/
def execLdVxByte (x : Reg) (byte : Byte) (s : State) : Host.Outcome State Fault Refusal :=
  .next (s.aluStep .move x byte)

/-- ADD Vx,byte (R122): VF is written by no flag. -/
def execAddVxByte (x : Reg) (byte : Byte) (s : State) : Host.Outcome State Fault Refusal :=
  .next (s.aluStep .addNoFlag x byte)

/-- LD Vx,Vy (R123). -/
def execLdVxVy (x y : Reg) (s : State) : Host.Outcome State Fault Refusal :=
  .next (s.aluStep .move x (s.readV y))

/-- OR Vx,Vy (R124). -/
def execOrVxVy (x y : Reg) (s : State) : Host.Outcome State Fault Refusal :=
  .next (s.aluStep .or x (s.readV y))

/-- AND Vx,Vy (R125). -/
def execAndVxVy (x y : Reg) (s : State) : Host.Outcome State Fault Refusal :=
  .next (s.aluStep .and x (s.readV y))

/-- XOR Vx,Vy (R126). -/
def execXorVxVy (x y : Reg) (s : State) : Host.Outcome State Fault Refusal :=
  .next (s.aluStep .xor x (s.readV y))

/-- ADD Vx,Vy (R127). -/
def execAddVxVy (x y : Reg) (s : State) : Host.Outcome State Fault Refusal :=
  .next (s.aluStep .add x (s.readV y))

/-- SUB Vx,Vy (R128). -/
def execSubVxVy (x y : Reg) (s : State) : Host.Outcome State Fault Refusal :=
  .next (s.aluStep .sub x (s.readV y))

/-- SHR Vx (R129): the y field is ignored (30_encoding.md R78). -/
def execShrVx (x : Reg) (s : State) : Host.Outcome State Fault Refusal :=
  .next (s.aluStep .shr x 0)

/-- SUBN Vx,Vy (R130). -/
def execSubnVxVy (x y : Reg) (s : State) : Host.Outcome State Fault Refusal :=
  .next (s.aluStep .subn x (s.readV y))

/-- SHL Vx (R131): the y field is ignored (30_encoding.md R78). -/
def execShlVx (x : Reg) (s : State) : Host.Outcome State Fault Refusal :=
  .next (s.aluStep .shl x 0)

end Sys2Proof.Machine
end

