-- ==== Sys2Proof/Machine/Operands.lean ====
section
/-! DEFINITION. The operand forms: zero-extension of an operand to 16 bits, the one data addressing mode, the glyph
address and the decimal digits (spec/42_index_memory.md R140 to R146). -/

namespace Sys2Proof.Machine

/-- `zext_16` of a 12-bit address operand. -/
def addrWord (a : Addr) : Word := a.setWidth 16

/-- `zext_16` of a byte. -/
def byteWord (b : Byte) : Word := b.setWidth 16

/-- `EA(k) = zext(I) + k` (R146): an unbounded sum, never reduced. -/
def State.effectiveAddr (s : State) (k : Nat) : Nat := s.i.toNat + k

/-- `zext_16(b) * 5` (R142): the offset of glyph `b`; the byte is not reduced to its low nibble. -/
def glyphAddr (b : Byte) : Word := BitVec.ofNat 16 (b.toNat * glyphBytes)

/-- The decimal digits of a byte, hundreds first (R143). -/
def decimalDigits (b : Byte) : List Byte :=
  [BitVec.ofNat 8 (b.toNat / 100), BitVec.ofNat 8 (b.toNat / 10 % 10), BitVec.ofNat 8 (b.toNat % 10)]

/-- The values of `V[0]` to `V[x]`, in that order (R144). -/
def State.regsUpTo (s : State) (x : Reg) : List Byte :=
  (List.range (x.toNat + 1)).map fun k => s.readV (BitVec.ofNat 4 k)

/-- The 9-bit row coordinate `zext_9(y) + row` DRW passes to the Display (44_io.md R162). -/
def rowCoord (y : Byte) (row : Nat) : BitVec 9 := y.setWidth 9 + BitVec.ofNat 9 row

end Sys2Proof.Machine
end

