-- ==== Sys2Proof/Machine/Flow.lean ====
section
/-! DEFINITION. Control transfer: spec/40_flow.md R100 to R108. -/

namespace Sys2Proof.Machine

/-- RET (R100): `PC <- Pop()`. -/
def execRet (s : State) : Host.Outcome State Fault Refusal :=
  .next (match s.pop with
    | .ok (t, s1) => s1.setPc t
    | .error h => h)

/-- JP addr (R101). -/
def execJpAddr (addr : Addr) (s : State) : Host.Outcome State Fault Refusal :=
  .next (s.setPc (addrWord addr))

/-- CALL addr (R102): push the address after the CALL, then jump. -/
def execCallAddr (addr : Addr) (s : State) : Host.Outcome State Fault Refusal :=
  .next (match s.push (s.pc + 2) with
    | .ok s1 => s1.setPc (addrWord addr)
    | .error h => h)

/-- SE Vx,byte (R103). -/
def execSeVxByte (x : Reg) (byte : Byte) (s : State) : Host.Outcome State Fault Refusal :=
  .next (s.skipIf (s.readV x == byte))

/-- SNE Vx,byte (R104). -/
def execSneVxByte (x : Reg) (byte : Byte) (s : State) : Host.Outcome State Fault Refusal :=
  .next (s.skipIf (s.readV x != byte))

/-- SE Vx,Vy (R105). -/
def execSeVxVy (x y : Reg) (s : State) : Host.Outcome State Fault Refusal :=
  .next (s.skipIf (s.readV x == s.readV y))

/-- SNE Vx,Vy (R106). -/
def execSneVxVy (x y : Reg) (s : State) : Host.Outcome State Fault Refusal :=
  .next (s.skipIf (s.readV x != s.readV y))

/-- JP V0,addr (R108): a 16-bit sum, not reduced to 12 bits. -/
def execJpV0Addr (addr : Addr) (s : State) : Host.Outcome State Fault Refusal :=
  .next (s.setPc (addrWord addr + byteWord (s.readV 0)))

end Sys2Proof.Machine
end

