-- ==== Sys2Proof/Machine/IndexMemory.lean ====
section
/-! DEFINITION. The I register and the memory-moving instructions: spec/42_index_memory.md R140 to R146. PC advances
after the last access, so that an instruction that faults leaves PC at its own address (60_exceptions.md R176). -/

namespace Sys2Proof.Machine

/-- LD I,addr (R140). -/
def execLdIAddr (addr : Addr) (s : State) : Host.Outcome State Fault Refusal :=
  .next (s.setI (addrWord addr)).advance

/-- ADD I,Vx (R141): modulo 65536, VF never written. -/
def execAddIVx (x : Reg) (s : State) : Host.Outcome State Fault Refusal :=
  .next (s.setI (s.i + byteWord (s.readV x))).advance

/-- LD F,Vx (R142). -/
def execLdFVx (x : Reg) (s : State) : Host.Outcome State Fault Refusal :=
  .next (s.setI (glyphAddr (s.readV x))).advance

/-- LD B,Vx (R143). -/
def execLdBVx (x : Reg) (s : State) : Host.Outcome State Fault Refusal :=
  .next (match s.storeBytes (s.effectiveAddr 0) (decimalDigits (s.readV x)) with
    | .ok s1 => s1.advance
    | .error h => h)

/-- LD [I],Vx (R144). -/
def execLdMemVx (x : Reg) (s : State) : Host.Outcome State Fault Refusal :=
  .next (match s.storeBytes (s.effectiveAddr 0) (s.regsUpTo x) with
    | .ok s1 => s1.advance
    | .error h => h)

/-- LD Vx,[I] (R145). -/
def execLdVxMem (x : Reg) (s : State) : Host.Outcome State Fault Refusal :=
  .next (match s.loadRegs (s.effectiveAddr 0) (x.toNat + 1) with
    | .ok s1 => s1.advance
    | .error h => h)

end Sys2Proof.Machine
end

