-- ==== Sys2Proof/Machine/Ports.lean ====
section
/-! DEFINITION. The ports (spec/20_memory.md R54 to R62), the sound timer's audio edge and the timer tick
(60_exceptions.md R185, R186). Every call is recorded in `ports.trace` with its answer. An answer comes from what the
host has settled in the state, and is a free value otherwise. -/

namespace Sys2Proof.Machine

/-- Record a call. -/
def State.record (s : State) (c : PortCall) : State :=
  s.setPorts { s.ports with trace := s.ports.trace ++ [c] }

/-- Count one free value as drawn. -/
def State.countFree (s : State) : State := s.setPorts { s.ports with freeCount := s.ports.freeCount + 1 }

/-! ### Random (R62) -/

/-- `Random.byte()`. -/
def State.randomByte (s : State) : Byte × State :=
  match s.ports.randoms with
  | b :: rest => (b, (s.setPorts { s.ports with randoms := rest }).record (.randomByte b))
  | [] => (Config.randomByte s.ports.freeCount, s.countFree.record (.randomByte (Config.randomByte s.ports.freeCount)))

/-! ### Input (R58, R59) -/

/-- What the host has settled for key number `k`: nothing if its keys are not in the state or `k` is above 15. -/
def settledKey (keys : Option (BitVec 16)) (k : Byte) : Option Bool :=
  match keys with
  | some held => if k.toNat ≤ 15 then some (held.getLsbD k.toNat) else none
  | none => none

/-- `Input.is_key_down(k)`. -/
def State.isKeyDown (s : State) (k : Byte) : Bool × State :=
  match settledKey s.ports.keys k with
  | some d => (d, s.record (.isKeyDown k d))
  | none => (Config.keyDown s.ports.freeCount, s.countFree.record (.isKeyDown k (Config.keyDown s.ports.freeCount)))

/-- `Input.poll_key()`. -/
def State.pollKey (s : State) : Option Nibble × State :=
  match s.ports.polls with
  | a :: rest => (a, (s.setPorts { s.ports with polls := rest }).record (.pollKey a))
  | [] => (Config.polledKey s.ports.freeCount, s.countFree.record (.pollKey (Config.polledKey s.ports.freeCount)))

/-! ### Display (R55 to R57) -/

/-- `FB[px][py]`, both coordinates reduced to the display's size. -/
def Screen.pixel (f : Screen) (px py : Nat) : Bool :=
  (f.rows[py % displayH]?.getD 0).getLsbD (px % displayW)

/-- `FB[px][py] <- FB[px][py] ^ 1`. -/
def Screen.flip (f : Screen) (px py : Nat) : Screen :=
  ⟨f.rows.setIfInBounds (py % displayH)
    ((f.rows[py % displayH]?.getD 0) ^^^ BitVec.twoPow 64 (px % displayW))⟩

/-- The first `n` rounds of the loop of R57: pixel `k` is bit `7 - k` of the row byte. -/
def Screen.drawBits (f : Screen) (x y : Nat) (b : Byte) : Nat → Bool × Screen
  | 0 => (false, f)
  | k + 1 =>
    let r := Screen.drawBits f x y b k
    if b.getLsbD (7 - k) then (r.1 || r.2.pixel (x + k) y, r.2.flip (x + k) y) else r

/-- `draw_byte(x, y, b)` of the reference Display (R57): the collision bit and the new pixels. -/
def Screen.drawByte (f : Screen) (x : Byte) (y : BitVec 9) (b : Byte) : Bool × Screen :=
  f.drawBits x.toNat y.toNat b 8

/-- `Display.clear()`. -/
def State.displayClear (s : State) : State :=
  (s.setPorts { s.ports with screen := s.ports.screen.map fun _ => Screen.blank }).record .clear

/-- The answer of an abstract Display: a free value, but a row byte of 0 clears no pixel and reports no collision
(R56; 44_io.md R162). -/
def State.abstractCollision (s : State) (b : Byte) : Bool := b != 0 && Config.collision s.ports.freeCount

/-- `Display.draw_byte(x, y, b)`: the collision bit and the state after the call. -/
def State.drawByte (s : State) (x : Byte) (y : BitVec 9) (b : Byte) : Bool × State :=
  match s.ports.screen with
  | some f =>
    ((f.drawByte x y b).1,
      (s.setPorts { s.ports with screen := some (f.drawByte x y b).2 }).record
        (.drawByte x y b (f.drawByte x y b).1))
  | none => (s.abstractCollision b, s.countFree.record (.drawByte x y b (s.abstractCollision b)))

/-! ### Audio and the sound timer (R61; 60_exceptions.md R186) -/

/-- The audio event of a change of ST from `old` to `new`. -/
def audioEdge (old new : Byte) : List PortCall :=
  if old = 0 ∧ new ≠ 0 then [.startTone] else if old ≠ 0 ∧ new = 0 then [.stopTone] else []

/-- `SetST(b)`: write ST and emit the audio edge. -/
def State.setST (s : State) (b : Byte) : State :=
  (s.setStRaw b).setPorts { s.ports with trace := s.ports.trace ++ audioEdge s.st b }

/-! ### The timer tick (60_exceptions.md R185) -/

/-- A tick's effect on DT and then ST: each is decremented unless it is zero. -/
def State.decrementTimers (s : State) : State :=
  let s1 := if s.dt = 0 then s else s.setDt (s.dt - 1)
  if s1.st = 0 then s1 else s1.setST (s1.st - 1)

/-- `Tick()`: count one completed cycle; every `TIMER_DIVIDER` of them the timers decrement. -/
def State.tick (s : State) : State :=
  if s.tickcnt.toNat + 1 = timerDivider then (s.setTickcnt 0).decrementTimers
  else s.setTickcnt (s.tickcnt + 1)

end Sys2Proof.Machine
end

