-- ==== Sys2Proof/Machine/Io.lean ====
section
/-! DEFINITION. The instructions that use the Display, Random and Input ports: spec/44_io.md R160 to R165. -/

namespace Sys2Proof.Machine

/-- CLS (R160). -/
def execCls (s : State) : Host.Outcome State Fault Refusal :=
  .next s.displayClear.advance

/-- RND Vx,byte (R161): the byte masked by the immediate. -/
def execRndVxByte (x : Reg) (byte : Byte) (s : State) : Host.Outcome State Fault Refusal :=
  .next (s.randomByte.2.writeV x (byte &&& s.randomByte.1)).advance

/-- The first `n` rows of a sprite at `(cx, cy)` from address `a` (R162): whether any row collided and the state, or
the state a fault leaves with the earlier rows drawn. -/
def State.drawRows (s : State) (a : Nat) (cx cy : Byte) : Nat → Except State (Bool × State)
  | 0 => .ok (false, s)
  | n + 1 =>
    match State.drawRows s a cx cy n with
    | .error h => .error h
    | .ok (hit, s1) =>
      match s1.memRead (a + n) with
      | .error h => .error h
      | .ok b => .ok (hit || (s1.drawByte cx (rowCoord cy n) b).1, (s1.drawByte cx (rowCoord cy n) b).2)

/-- DRW Vx,Vy,n (R162): both coordinates are read first, VF is written once, after the last row. -/
def execDrwVxVyN (x y : Reg) (n : Nibble) (s : State) : Host.Outcome State Fault Refusal :=
  .next (match s.drawRows (s.effectiveAddr 0) (s.readV x) (s.readV y) n.toNat with
    | .ok (hit, s1) => (s1.writeV vf (flagByte hit)).advance
    | .error h => h)

/-- SKP Vx (R163). -/
def execSkpVx (x : Reg) (s : State) : Host.Outcome State Fault Refusal :=
  .next ((s.isKeyDown (s.readV x)).2.skipIf (s.isKeyDown (s.readV x)).1)

/-- SKNP Vx (R164). -/
def execSknpVx (x : Reg) (s : State) : Host.Outcome State Fault Refusal :=
  .next ((s.isKeyDown (s.readV x)).2.skipIf (!(s.isKeyDown (s.readV x)).1))

/-- What LD Vx,K does with the answer of its poll (R165): a key is loaded and the instruction completes; without one
nothing is written but `RUN`. -/
def State.takeKey (s : State) (x : Reg) : Option Nibble → State
  | some k => ((s.writeV x (k.setWidth 8)).setRun .running).advance
  | none => s.setRun .awaitingKey

/-- LD Vx,K (R165): one poll per step. -/
def execLdVxK (x : Reg) (s : State) : Host.Outcome State Fault Refusal :=
  .next (s.pollKey.2.takeKey x s.pollKey.1)

end Sys2Proof.Machine
end

