-- ==== Sys2Proof/Machine/Timers.lean ====
section
/-! DEFINITION. The timer transfers: spec/43_timers.md R150 to R152. The tick divider is not touched. -/

namespace Sys2Proof.Machine

/-- LD Vx,DT (R150): the value before this cycle's tick. -/
def execLdVxDt (x : Reg) (s : State) : Host.Outcome State Fault Refusal :=
  .next (s.writeV x s.dt).advance

/-- LD DT,Vx (R151). -/
def execLdDtVx (x : Reg) (s : State) : Host.Outcome State Fault Refusal :=
  .next (s.setDt (s.readV x)).advance

/-- LD ST,Vx (R152): with the audio edge. -/
def execLdStVx (x : Reg) (s : State) : Host.Outcome State Fault Refusal :=
  .next (s.setST (s.readV x)).advance

end Sys2Proof.Machine
end

