-- ==== Sys2Proof/Machine/Cycle.lean ====
section
/-! DEFINITION. The cycle (10_state.md R24): window check, fetch, decode, execute, count and tick; and the host's
loader (70_reset_and_hazards.md R202). -/

namespace Sys2Proof.Machine

/-- PC lies in the program window: both bytes of the word are in the program region (20_memory.md R45). -/
def State.inWindow (s : State) : Bool := decide (programBase ≤ s.pc.toNat) && decide (s.pc.toNat ≤ memSize - 2)

/-- The word at PC, the byte at the lower address being the high one (20_memory.md R46). -/
def State.fetchWord (s : State) : Word := joinBytes (s.byteAt s.pc.toNat) (s.byteAt (s.pc.toNat + 1))

/-- What the cycle sets before its phases: no unrecognised word seen yet (10_state.md R31), and `RUN` as a completed
cycle leaves it (R24; a step in `AwaitingKey` is identical to one in `Running`, R26). An execute phase that is not
completed, and a fault, write `RUN` themselves (notes/assumptions/11.md). -/
def State.beginCycle (s : State) : State := (s.setPulse false).setRun .running

/-- Phase 4: a cycle whose execute phase ran to its end ticks (R24, 60_exceptions.md R185). -/
def State.endCycle (s : State) : State := if s.run = .running then s.tick else s

/-- The unrecognised word: the normal advance and the pulse (30_encoding.md R79). -/
def State.unrecognisedWord (s : State) : State := (s.setPulse true).advance

/-- Phase 4 after an execute phase. -/
def closeCycle : Host.Outcome State Fault Refusal → Host.Outcome State Fault Refusal
  | .next s => .next s.endCycle
  | .fault r => .fault r
  | .refused r => .refused r

/-- One cycle (R24). -/
def cycle (s : State) : Host.Outcome State Fault Refusal :=
  if s.run = .halted then .next s
  else if s.inWindow then
    match decodeWord s.fetchWord with
    | .instr i => closeCycle (exec i s.beginCycle)
    | .unrecognised => .next s.beginCycle.unrecognisedWord.endCycle
  else .next (s.beginCycle.raise .programCounterOutOfProgramRegion .none s.pc.toNat)

/-- Copy an image into Memory from an address upward (70_reset_and_hazards.md R202). -/
def Memory.copyIn (m : Memory) (a : Nat) : List Byte → Memory
  | [] => m
  | b :: bs => Memory.copyIn (m.write a b) (a + 1) bs

/-- `load_program(bytes)` (R202), the host's duty between reset and the first step (R203): an image longer than
`ROM_MAX` is refused whole, with `RomTooLarge` (60_exceptions.md R173). -/
def State.loadProgram (s : State) (image : List Byte) : Host.Outcome State Fault Refusal :=
  if romMax < image.length then .fault .romTooLarge
  else .next (s.setMem (s.mem.copyIn programBase image))

/-- A state whose next cycle fetches at PC: not halted, and PC in the program window (moved to `PROGRAM_BASE` if it
is not). -/
def State.readyToFetch (s : State) : State :=
  let s1 := if s.run = .halted then s.setRun .running else s
  if s1.inWindow then s1 else s1.setPc (BitVec.ofNat 16 programBase)

/-- The two bytes of a word stored where the next cycle fetches. -/
def State.placeWord (s : State) (w : Word) : State :=
  let s1 := s.readyToFetch
  s1.setMem (s1.mem.copyIn s1.pc.toNat (wordBytes w))

end Sys2Proof.Machine
end

