-- ==== Sys2Proof/Machine/Step.lean ====
section
/-! DEFINITION. The step, and the placing of one instruction where the step fetches. Both only call what
Machine/Cycle.lean defines. -/

namespace Sys2Proof.Machine

/-- `Step()` (10_state.md R24). -/
def step (s : State) : Host.Outcome State Fault Refusal := cycle s

/-- The state with the instruction whose bits are `w` (numbered as spec/opcode_table.json numbers them) stored where
`step` fetches next. -/
def State.withFetchWord (s : State) (nbits w : Nat) : State := s.placeWord (tableWord nbits w)

end Sys2Proof.Machine
end

