-- ==== Sys2Proof/Safety.lean ====
section
/-! DEFINITION. The terms the statements use: what stays unchanged (the frame), the tone as the trace of audio events
tells it, and the invariant of the machine. -/

namespace Sys2Proof.Machine

/-! ### Frames -/

/-- Every general register but those named is unchanged. -/
def SameRegsBut (written : List Reg) (s t : State) : Prop := ∀ r, r ∉ written → t.readV r = s.readV r

/-- Every byte of Memory is unchanged. -/
def SameMem (s t : State) : Prop := ∀ a, t.byteAt a = s.byteAt a

/-- Every byte of Memory outside `n` bytes from address `a` is unchanged. -/
def SameMemOutside (a n : Nat) (s t : State) : Prop := ∀ b, b < a ∨ a + n ≤ b → t.byteAt b = s.byteAt b

/-- The stack pointer and every slot are unchanged. -/
def SameStack (s t : State) : Prop := t.sp = s.sp ∧ ∀ k, t.readSlot k = s.readSlot k

/-- DT, ST and the tick divider's counter are unchanged. -/
def SameTimers (s t : State) : Prop := t.dt = s.dt ∧ t.st = s.st ∧ t.tickcnt = s.tickcnt

/-- The run state, the fault latches and the pulse are unchanged. -/
def SameStatus (s t : State) : Prop :=
  t.run = s.run ∧ t.fault = s.fault ∧ t.faultInfo = s.faultInfo ∧ t.unrecognised = s.unrecognised

/-- No port was called and the host's side of the ports is unchanged. -/
def SamePorts (s t : State) : Prop := t.ports = s.ports

/-- The pixels of an attached Display are unchanged, and whether one is attached. -/
def SameScreen (s t : State) : Prop := t.ports.screen = s.ports.screen

/-- The keys the host has settled are unchanged (20_memory.md R58: a key test does not change the Input's state). -/
def SameKeys (s t : State) : Prop := t.ports.keys = s.ports.keys

/-- No settled answer of `poll_key` is used up. -/
def SamePolls (s t : State) : Prop := t.ports.polls = s.ports.polls

/-- No settled answer of `Random.byte` is used up. -/
def SameRandoms (s t : State) : Prop := t.ports.randoms = s.ports.randoms

/-- The frame of an instruction that writes no more than PC and the general registers named. -/
def OnlyRegs (written : List Reg) (s t : State) : Prop :=
  SameRegsBut written s t ∧ SameMem s t ∧ SameStack s t ∧ SameTimers s t ∧ SameStatus s t ∧ SamePorts s t ∧ t.i = s.i

/-- The frame of an instruction that writes no more than PC, the general registers named, and the port side. -/
def OnlyRegsAndPorts (written : List Reg) (s t : State) : Prop :=
  SameRegsBut written s t ∧ SameMem s t ∧ SameStack s t ∧ SameTimers s t ∧ SameStatus s t ∧ t.i = s.i

/-- The frame of an instruction that writes no more than PC and `n` bytes of Memory from address `a`. -/
def OnlyMemAt (a n : Nat) (s t : State) : Prop :=
  SameRegsBut [] s t ∧ SameMemOutside a n s t ∧ SameStack s t ∧ SameTimers s t ∧ SameStatus s t ∧ SamePorts s t ∧
  t.i = s.i

/-- `FAULT`, `FAULT_INFO`, `RUN` and PC after a fault raised by the instruction at the PC of `s`
(60_exceptions.md R174). -/
def LatchedFrom (s t : State) (c : Cause) (kind : AccessKind) (addr : Nat) : Prop :=
  t.run = .halted ∧ t.fault = c ∧ t.faultInfo.kind = kind ∧ t.faultInfo.addr.toNat = addr ∧ t.faultInfo.pc = s.pc ∧
  t.pc = s.pc ∧ t.unrecognised = s.unrecognised

/-- The frame of a fault (60_exceptions.md R174): nothing but `FAULT`, `FAULT_INFO` and `RUN` differs from `s`, and
they are what `raise` writes. -/
def RaisedFrom (s t : State) (c : Cause) (kind : AccessKind) (addr : Nat) : Prop :=
  LatchedFrom s t c kind addr ∧ SameRegsBut [] s t ∧ SameMem s t ∧ SameStack s t ∧ SameTimers s t ∧ SamePorts s t ∧
  t.i = s.i

/-! ### The write columns of the access matrix (10_state.md R22) -/

/-- The general registers an instruction writes; for a flag-writing instruction the destination and VF. -/
def writtenRegs : Instr → List Reg
  | .ldVxByte x _ | .addVxByte x _ | .rndVxByte x _ => [x]
  | .ldVxVy x _ | .orVxVy x _ | .andVxVy x _ | .xorVxVy x _ => [x]
  | .addVxVy x _ | .subVxVy x _ | .subnVxVy x _ | .shrVx x _ | .shlVx x _ => [x, vf]
  | .drwVxVyN _ _ _ => [vf]
  | .ldVxDt x | .ldVxK x => [x]
  | .ldVxMem x => (List.range (x.toNat + 1)).map (BitVec.ofNat 4)
  | .cls | .ret | .jpAddr _ | .callAddr _ | .jpV0Addr _ | .ldIAddr _ => []
  | .seVxByte _ _ | .sneVxByte _ _ | .seVxVy _ _ | .sneVxVy _ _ | .skpVx _ | .sknpVx _ => []
  | .ldDtVx _ | .ldStVx _ | .addIVx _ | .ldFVx _ | .ldBVx _ | .ldMemVx _ => []

/-- How many bytes of Memory from I upward the instruction stores to: 3 for LD B,Vx, x + 1 for LD [I],Vx, none for
every other. -/
def bytesStored : Instr → Nat
  | .ldBVx _ => 3
  | .ldMemVx x => x.toNat + 1
  | _ => 0

/-- The instruction pushes or pops, and so writes SP. -/
def usesStack : Instr → Bool
  | .ret | .callAddr _ => true
  | _ => false

/-- The instruction writes I. -/
def writesI : Instr → Bool
  | .ldIAddr _ | .addIVx _ | .ldFVx _ => true
  | _ => false

/-- The instruction may call a port. -/
def usesPort : Instr → Bool
  | .cls | .rndVxByte _ _ | .drwVxVyN _ _ _ | .skpVx _ | .sknpVx _ | .ldVxK _ | .ldStVx _ => true
  | _ => false

/-- The instruction changes the pixels of an attached Display. -/
def usesDisplay : Instr → Bool
  | .cls | .drwVxVyN _ _ _ => true
  | _ => false

/-- The instruction makes calls of this kind: the column "port" of the matrix. -/
def makesCall : Instr → PortCall → Bool
  | .cls, .clear => true
  | .rndVxByte _ _, .randomByte _ => true
  | .drwVxVyN _ _ _, .drawByte _ _ _ _ => true
  | .skpVx _, .isKeyDown _ _ | .sknpVx _, .isKeyDown _ _ => true
  | .ldVxK _, .pollKey _ => true
  | .ldStVx _, .startTone | .ldStVx _, .stopTone => true
  | _, _ => false

/-- The instruction can raise a fault (60_exceptions.md R171). -/
def canFault : Instr → Bool
  | .ret | .callAddr _ | .drwVxVyN _ _ _ | .ldBVx _ | .ldMemVx _ | .ldVxMem _ => true
  | _ => false

/-- The PC an instruction that was not ended by a fault leaves (10_state.md R25): the target, `PC + 4` for a skip
taken, `PC + 2` otherwise, and PC unchanged for an unanswered key wait. -/
def pcAfter (i : Instr) (s t : State) : Prop :=
  match i with
  | .ret => t.pc = s.readSlot (s.sp - 1)
  | .jpAddr a | .callAddr a => t.pc.toNat = a.toNat
  | .jpV0Addr a => t.pc.toNat = a.toNat + (s.readV 0).toNat
  | .seVxByte x b => t.pc = if s.readV x = b then s.pc + 4 else s.pc + 2
  | .sneVxByte x b => t.pc = if s.readV x ≠ b then s.pc + 4 else s.pc + 2
  | .seVxVy x y => t.pc = if s.readV x = s.readV y then s.pc + 4 else s.pc + 2
  | .sneVxVy x y => t.pc = if s.readV x ≠ s.readV y then s.pc + 4 else s.pc + 2
  | .skpVx x => ∃ d, t.ports.trace = s.ports.trace ++ [.isKeyDown (s.readV x) d] ∧
      t.pc = if d = true then s.pc + 4 else s.pc + 2
  | .sknpVx x => ∃ d, t.ports.trace = s.ports.trace ++ [.isKeyDown (s.readV x) d] ∧
      t.pc = if d = false then s.pc + 4 else s.pc + 2
  | .ldVxK _ => ∃ a, t.ports.trace = s.ports.trace ++ [.pollKey a] ∧
      t.pc = if a = none then s.pc else s.pc + 2
  | .cls | .ldVxByte _ _ | .addVxByte _ _ | .ldVxVy _ _ | .orVxVy _ _ | .andVxVy _ _ | .xorVxVy _ _
  | .addVxVy _ _ | .subVxVy _ _ | .shrVx _ _ | .subnVxVy _ _ | .shlVx _ _ | .ldIAddr _ | .rndVxByte _ _
  | .drwVxVyN _ _ _ | .ldVxDt _ | .ldDtVx _ | .ldStVx _ | .addIVx _ | .ldFVx _ | .ldBVx _ | .ldMemVx _
  | .ldVxMem _ => t.pc = s.pc + 2

/-! ### The calls of a sprite (44_io.md R162) -/

/-- The calls DRW makes for the rows whose collision answers are `cs`: row `k` is the byte at `a + k`, drawn at
`(cx, zext_9(cy) + k)`. -/
def rowCalls (s : State) (a : Nat) (cx cy : Byte) (cs : List Bool) : List PortCall :=
  cs.zipIdx.map fun p => .drawByte cx (rowCoord cy p.2) (s.byteAt (a + p.2)) p.1

/-! ### The audio events (60_exceptions.md R186) -/

/-- Whether a tone sounds after a port call; nothing if the call breaks the strict alternation of the two audio
events. -/
def toneAfter : Option Bool → PortCall → Option Bool
  | some false, .startTone => some true
  | some true, .stopTone => some false
  | _, .startTone => none
  | _, .stopTone => none
  | t, _ => t

/-- Whether a tone sounds after a trace that began in silence; nothing if `start_tone` and `stop_tone` did not
alternate, `start_tone` first. -/
def toneOf (trace : List PortCall) : Option Bool := trace.foldl toneAfter (some false)

/-! ### The invariant -/

/-- What `FAULT_INFO` says of an `AddressOutOfBounds` (60_exceptions.md R170, R171). -/
def outOfBoundsDetail (s : State) : Prop :=
  match s.faultInfo.kind with
  | .none => False
  | .memRead | .memWrite => memSize ≤ s.faultInfo.addr.toNat
  | .stackPush => s.sp = 15 ∧ s.faultInfo.addr.toNat = 15
  | .stackPop => s.sp = 0 ∧ s.faultInfo.addr.toNat = 0

/-- The invariant every step keeps. -/
structure Invariant (s : State) : Prop where
  /-- Memory is in its canonical form. -/
  memCanonical : s.mem.wf = true
  /-- The machine is halted exactly while a cause is latched (10_state.md R26, R28). -/
  haltedIffLatched : s.run = .halted ↔ s.fault ≠ .none
  /-- `FAULT_INFO` is zero while no cause is latched (R28, R30). -/
  infoZero : s.fault = .none → s.faultInfo = FaultInfo.zero
  /-- Codes 2 and 3 are never latched (60_exceptions.md R170). -/
  onlyLatchable : s.fault ≠ .romTooLarge ∧ s.fault ≠ .unrecognizedOpcode
  /-- An `AddressOutOfBounds` names the faulting instruction, which was fetched in the window (R171, R174). -/
  outOfBounds : s.fault = .addressOutOfBounds → s.faultInfo.pc = s.pc ∧ s.inWindow = true ∧ outOfBoundsDetail s
  /-- A `ProgramCounterOutOfProgramRegion` names the PC outside the window (R172, R174). -/
  outOfWindow : s.fault = .programCounterOutOfProgramRegion →
    s.faultInfo = ⟨.none, s.pc.setWidth 17, s.pc⟩ ∧ s.inWindow = false
  /-- The pulse is only ever 1 after a completed cycle (10_state.md R31). -/
  pulseOnlyRunning : s.unrecognised = true → s.run = .running
  /-- The return addresses held are addresses after a CALL in the window (60_exceptions.md R182). -/
  returnAddresses : ∀ k : BitVec 4, k.toNat < s.sp.toNat →
    0x202 ≤ (s.readSlot k).toNat ∧ (s.readSlot k).toNat ≤ 0x1000
  /-- Slot 15 is never written (10_state.md R20). -/
  slot15Unused : s.readSlot 15 = 0
  /-- The audio events alternate, and a tone sounds exactly while ST is not zero (60_exceptions.md R186). -/
  toneWhileSt : toneOf s.ports.trace = some (s.st != 0)
  /-- While a key is awaited PC stands at an LD Vx,K in the window (10_state.md R26). -/
  awaitingAtKeyWait : s.run = .awaitingKey → s.inWindow = true ∧ ∃ x, decodeWord s.fetchWord = .instr (.ldVxK x)

/-- A run is safe up to a state if no fatal fault has ended it (60_exceptions.md R174). -/
def State.Safe (s : State) : Prop := s.run ≠ .halted

end Sys2Proof.Machine
end

