-- ==== Sys2Proof/Certificates/Slice0/Obligations.lean ====
section
/-! DEFINITION. The statements for the provers. Each docstring names the rule of spec/ it formalises; where a clause
rests on a choice the spec marks as its own, or on one of the model's, the docstring names the decision or the log
entry. -/

open Sys2Proof Sys2Proof.Machine

/-! ### Encoding -/

/-- 30_encoding.md R70, R76; the patterns of 31 rows are the spec's general knowledge (G1, log entry 4): every
instruction, with every operand at every value, is read back from its bytes, and the bytes after it are left over. -/
def Obligations.DecodeEncodeRoundTrip : Prop :=
  ∀ (i : Instr) (rest : List Byte), decodeBytes (encode i ++ rest) = .ok (i, rest)

/-- 30_encoding.md R74, R76, R78 (G1, log entry 4): bytes that decode are the encoding of what they decode to, so that
no bit of a word is dropped, the ignored y field of SHR and SHL included. -/
def Obligations.DecodedBytesAreTheEncoding : Prop :=
  ∀ (bytes rest : List Byte) (i : Instr), decodeBytes bytes = .ok (i, rest) → bytes = encode i ++ rest

/-- 95_test_vectors.md S8, S9 and section 2.1: words of the spec decode to the instructions it names. But for 00E0, 6xkk
and 8xy4 their patterns are the spec's general knowledge (G1, PRESUMED, log entry 4), and that 5AB1 is unrecognised
rests on strict matching, its decision D5 (log entry 21). -/
def Obligations.SpecWordsDecode : Prop :=
  decodeWord 0x00E0 = .instr .cls ∧ decodeWord 0x6005 = .instr (.ldVxByte 0 5) ∧
  decodeWord 0x6103 = .instr (.ldVxByte 1 3) ∧ decodeWord 0x8014 = .instr (.addVxVy 0 1) ∧
  decodeWord 0x6A55 = .instr (.ldVxByte 10 0x55) ∧ decodeWord 0xD12F = .instr (.drwVxVyN 1 2 15) ∧
  decodeWord 0x2FFE = .instr (.callAddr 0xFFE) ∧ decodeWord 0xFE65 = .instr (.ldVxMem 14) ∧
  decodeWord 0x00EE = .instr .ret ∧ decodeWord 0x80F6 = .instr (.shrVx 0 15) ∧
  decodeWord 0x5AB1 = .unrecognised ∧ decodeWord 0xE19E = .instr (.skpVx 1)

/-- 30_encoding.md R74, R76 (G1, log entry 4): a word selects the row its masked bits match and no other: the row of
the instruction it decodes to matches, and a row that matches is that of the instruction it decodes to. -/
def Obligations.OpcodeMapSelects : Prop :=
  (∀ (w : Word) (i : Instr), decodeWord w = .instr i → w &&& (opcodeRow i).mask = (opcodeRow i).pattern) ∧
  (∀ (w : Word) (j : Instr), w &&& (opcodeRow j).mask = (opcodeRow j).pattern →
    ∃ i, decodeWord w = .instr i ∧ opcodeRow i = opcodeRow j)

/-- 30_encoding.md R80 (strict matching is the spec's decision D5, log entry 21): the unrecognised words are exactly
the sets of its table. -/
def Obligations.UnrecognisedWordsAreTheseSets : Prop :=
  ∀ w : Word, decodeWord w = .unrecognised ↔
    (let n3 := w.toNat / 4096; let n0 := w.toNat % 16; let low := w.toNat % 256;
      (n3 = 0 ∧ w.toNat ≠ 0x00E0 ∧ w.toNat ≠ 0x00EE) ∨ (n3 = 5 ∧ n0 ≠ 0) ∨
      (n3 = 8 ∧ n0 ∈ [0x8, 0x9, 0xA, 0xB, 0xC, 0xD, 0xF]) ∨ (n3 = 9 ∧ n0 ≠ 0) ∨
      (n3 = 0xE ∧ low ∉ [0x9E, 0xA1]) ∨
      (n3 = 0xF ∧ low ∉ [0x07, 0x0A, 0x15, 0x18, 0x1E, 0x29, 0x33, 0x55, 0x65]))

/-! ### Memory -/

/-- 20_memory.md R41: a read below `MEM_SIZE` answers the byte; one at or above it raises `AddressOutOfBounds` of kind
`MEM_READ` with the address (an effective address is at most 65535 + 15) and answers nothing. -/
def Obligations.MemReadIsBoundsChecked : Prop :=
  ∀ (s : State) (a : Nat),
    (a < 4096 → s.memRead a = .ok (s.byteAt a)) ∧
    (4096 ≤ a → a ≤ 65550 → ∃ h, s.memRead a = .error h ∧ h.run = .halted ∧ h.fault = .addressOutOfBounds ∧
      h.faultInfo.kind = .memRead ∧ h.faultInfo.addr.toNat = a)

/-- 20_memory.md R42, with the frame of a fault (60_exceptions.md R174, the spec's decisions D10 and D22, log entry 1):
a write below `MEM_SIZE`, anywhere, stores that byte and nothing else changes; one at or above it raises and writes
nothing. -/
def Obligations.MemWriteIsBoundsChecked : Prop :=
  ∀ (s : State) (a : Nat) (b : Byte), s.mem.wf = true →
    (a < 4096 → ∃ t, s.memWrite a b = .ok t ∧ t.byteAt a = b ∧ SameMemOutside a 1 s t ∧ t = { s with mem := t.mem }) ∧
    (4096 ≤ a → a ≤ 65550 → ∃ h, s.memWrite a b = .error h ∧ RaisedFrom s h .addressOutOfBounds .memWrite a)

/-! ### Reset and loading -/

/-- 10_state.md R30, 70_reset_and_hazards.md R200: the reset values. PC and the presence of the glyph table are the
source's; the zeros are the spec's decisions D6, D7, D10, D12 (log entries 1, 2, 5, 14), the 80 glyph bytes of
R44 its general knowledge G2 (log entry 3), the pulse the model's choice (log entry 6). -/
def Obligations.ResetValues : Prop :=
  State.reset.pc = 0x0200 ∧ (∀ r, State.reset.readV r = 0) ∧ State.reset.i = 0 ∧ State.reset.dt = 0 ∧
  State.reset.st = 0 ∧ State.reset.sp = 0 ∧ (∀ k, State.reset.readSlot k = 0) ∧ State.reset.tickcnt = 0 ∧
  State.reset.run = .running ∧ State.reset.fault = .none ∧ State.reset.faultInfo = ⟨.none, 0, 0⟩ ∧
  State.reset.unrecognised = false ∧ (∀ a, 80 ≤ a → State.reset.byteAt a = 0) ∧
  (List.range 80).map State.reset.byteAt =
    [0xF0, 0x90, 0x90, 0x90, 0xF0] ++ [0x20, 0x60, 0x20, 0x20, 0x70] ++ [0xF0, 0x10, 0xF0, 0x80, 0xF0] ++
    [0xF0, 0x10, 0xF0, 0x10, 0xF0] ++ [0x90, 0x90, 0xF0, 0x10, 0x10] ++ [0xF0, 0x80, 0xF0, 0x10, 0xF0] ++
    [0xF0, 0x80, 0xF0, 0x90, 0xF0] ++ [0xF0, 0x10, 0x20, 0x40, 0x40] ++ [0xF0, 0x90, 0xF0, 0x90, 0xF0] ++
    [0xF0, 0x90, 0xF0, 0x10, 0xF0] ++ [0xF0, 0x90, 0xF0, 0x90, 0x90] ++ [0xE0, 0x90, 0xE0, 0x90, 0xE0] ++
    [0xF0, 0x80, 0x80, 0x80, 0xF0] ++ [0xE0, 0x90, 0x90, 0x90, 0xE0] ++ [0xF0, 0x80, 0xF0, 0x80, 0xF0] ++
    [0xF0, 0x80, 0xF0, 0x80, 0x80]

/-- 70_reset_and_hazards.md R201 (the spec's decision D6; that the trace begins again is the model's choice, log entry
17): a reset in mid-run leaves `Halted`, and every element of the machine, Memory included, is at its reset value; the
pixels of an attached reference Display are off (20_memory.md R57, log entry 10), and the answers the host has settled
stay. -/
def Obligations.ResetCommandRestoresEverything : Prop :=
  ∀ s : State, s.resetCore.run = .running ∧ s.resetCore.fault = .none ∧
    { s.resetCore with ports := State.reset.ports } = State.reset ∧ s.resetCore.ports.trace = [] ∧
    s.resetCore.ports.screen = s.ports.screen.map (fun _ => Screen.blank) ∧ s.resetCore.ports.keys = s.ports.keys ∧
    s.resetCore.ports.polls = s.ports.polls ∧ s.resetCore.ports.randoms = s.ports.randoms

/-- 70_reset_and_hazards.md R202 (that the bytes past the image stay 0 rests on the spec's decision D7): an image of
at most 3584 bytes is copied to 0x200 upward, byte for byte, and nothing else changes. -/
def Obligations.LoadProgramCopiesImage : Prop :=
  ∀ (s : State) (image : List Byte), s.mem.wf = true → image.length ≤ 3584 →
    ∃ t, s.loadProgram image = .next t ∧ (∀ k (h : k < image.length), t.byteAt (0x200 + k) = image[k]) ∧
      SameMemOutside 0x200 image.length s t ∧ t = { s with mem := t.mem }

/-- 60_exceptions.md R173: `RomTooLarge` is raised iff the image is longer than 3584 bytes; there is then no state to
step, nothing having been copied. -/
def Obligations.RomTooLargeIffOverlong : Prop :=
  ∀ (s : State) (image : List Byte), s.loadProgram image = .fault .romTooLarge ↔ 3584 < image.length

/-! ### The cycle -/

/-- 10_state.md R24 (the order of the phases is the spec's decision D12; what is set before the phases is the model's,
log entry 11): when the bytes at a PC in the window decode to an instruction, the step is `exec` of it, on the state
with the pulse cleared and `RUN` running, and then a tick if the execute phase ran to its end. -/
def Obligations.StepRunsDecodedInstruction : Prop :=
  ∀ (s t : State) (i : Instr), s.run ≠ .halted → 0x200 ≤ s.pc.toNat → s.pc.toNat ≤ 0xFFE →
    decodeBytes [s.byteAt s.pc.toNat, s.byteAt (s.pc.toNat + 1)] = .ok (i, []) →
    exec i { s with unrecognised := false, run := .running } = .next t →
    step s = .next (if t.run = .running then t.tick else t)

/-- 20_memory.md R46: a fetch joins the bytes at PC and PC + 1, the first being the high byte. -/
def Obligations.FetchIsBigEndian : Prop :=
  ∀ s : State, s.fetchWord.toNat = 256 * (s.byteAt s.pc.toNat).toNat + (s.byteAt (s.pc.toNat + 1)).toNat

/-- 30_encoding.md R79, 60_exceptions.md R178 (the pulse and its counting as a cycle are the spec's decision D23): an
unrecognised word advances PC by 2, sets the pulse, ticks, and does nothing else. -/
def Obligations.UnrecognisedWordIsNoOp : Prop :=
  ∀ (s : State) (w : Word), s.run ≠ .halted → 0x200 ≤ s.pc.toNat → s.pc.toNat ≤ 0xFFE →
    decodeBytes [s.byteAt s.pc.toNat, s.byteAt (s.pc.toNat + 1)] = .error (.unrecognised w) →
    step s = .next { s with unrecognised := true, run := .running, pc := s.pc + 2 }.tick

/-- 20_memory.md R45, 60_exceptions.md R172, R174 (the window is the spec's decision D11, the latches D10, D22; log
entries 1, 15): a PC outside 0x200 to 0xFFE halts the machine before any byte is read. -/
def Obligations.FetchOutsideWindowHalts : Prop :=
  ∀ s : State, s.run ≠ .halted → (s.pc.toNat < 0x200 ∨ 0xFFE < s.pc.toNat) →
    ∃ t, step s = .next t ∧
      RaisedFrom { s with unrecognised := false } t .programCounterOutOfProgramRegion .none s.pc.toNat

/-- 10_state.md R26, 60_exceptions.md R177: no number of steps changes a halted machine. -/
def Obligations.HaltedForGood : Prop :=
  ∀ (s : State) (n : Nat), s.run = .halted → Host.Core.run Sys2Proof.core n s = .next s

/-- 60_exceptions.md R174, R185 (D12, D22; log entries 1, 14): a step that ends in a fault does not move PC, does not tick, leaves the stack,
and emits no audio event. -/
def Obligations.FaultedStepFreezes : Prop :=
  ∀ s t : State, s.run ≠ .halted → step s = .next t → t.run = .halted →
    t.pc = s.pc ∧ SameTimers s t ∧ SameStack s t ∧ t.i = s.i ∧ t.fault ≠ .none ∧ t.faultInfo.pc = s.pc ∧
    ∃ calls, t.ports.trace = s.ports.trace ++ calls ∧ PortCall.startTone ∉ calls ∧ PortCall.stopTone ∉ calls

/-- 60_exceptions.md R171, R175: an execute phase ends in a fault only for RET, CALL, DRW, LD B,Vx, LD [I],Vx and
LD Vx,[I]; every other instruction cannot fault. -/
def Obligations.OnlySixInstructionsFault : Prop :=
  ∀ (i : Instr) (s t : State), s.run ≠ .halted → exec i s = .next t → t.run = .halted → canFault i = true

/-- 60_exceptions.md R170, R174 (log entry 1): every step answers a next state; a fatal fault is a state with its cause
latched, and nothing is refused. -/
def Obligations.StepAlwaysAnswersNext : Prop :=
  ∀ s : State, ∃ t, step s = .next t

/-- 44_io.md R165, 60_exceptions.md R190 (the polling form is the spec's decision D14): while the polls answer none the
machine stays where it is, state retained and timers still; the key that ends the wait is loaded, PC advances, and the
whole wait is one cycle for the tick. -/
def Obligations.KeyWaitIsOneCycle : Prop :=
  ∀ (s : State) (x : Reg) (n : Nat) (k : Nibble) (rest : List (Option Nibble)), s.run ≠ .halted →
    0x200 ≤ s.pc.toNat → s.pc.toNat ≤ 0xFFE →
    decodeBytes [s.byteAt s.pc.toNat, s.byteAt (s.pc.toNat + 1)] = .ok (.ldVxK x, []) →
    s.ports.polls = List.replicate n none ++ some k :: rest →
    (0 < n → Host.Core.run Sys2Proof.core n s = .next { s with
      unrecognised := false, run := .awaitingKey,
      ports := { s.ports with
        polls := some k :: rest, trace := s.ports.trace ++ List.replicate n (.pollKey none) } }) ∧
    ∃ u, Host.Core.run Sys2Proof.core (n + 1) s = .next u.tick ∧ u.run = .running ∧ u.pc = s.pc + 2 ∧
      (u.readV x).toNat = k.toNat ∧ SameRegsBut [x] s u ∧ SameMem s u ∧ SameStack s u ∧ SameTimers s u ∧ u.i = s.i ∧
      u.fault = s.fault ∧ u.faultInfo = s.faultInfo ∧
      u.ports.polls = rest ∧ SameScreen s u ∧ SameKeys s u ∧ SameRandoms s u ∧
      u.ports.trace = s.ports.trace ++ List.replicate n (.pollKey none) ++ [.pollKey (some k)]

/-- 60_exceptions.md R185, 43_timers.md R153 (the tick's place and phase are the spec's decision D12, log entry 14):
after `k` completed cycles the divider has advanced by `k` modulo 8 and each timer has lost one for every wrap, stopping
at zero; so DT reaches zero between `8 (v - 1) + 1` and `8 v` cycles. -/
def Obligations.TimersCountCompletedCycles : Prop :=
  (∀ (s : State) (k : Nat),
    (State.tick^[k] s).tickcnt.toNat = (s.tickcnt.toNat + k) % 8 ∧
    (State.tick^[k] s).dt.toNat = s.dt.toNat - (s.tickcnt.toNat + k) / 8 ∧
    (State.tick^[k] s).st.toNat = s.st.toNat - (s.tickcnt.toNat + k) / 8) ∧
  (∀ s : State, s.dt ≠ 0 →
    (∀ k, k < 8 * (s.dt.toNat - 1) + 1 → (State.tick^[k] s).dt ≠ 0) ∧ (State.tick^[8 * s.dt.toNat] s).dt = 0)

/-- 60_exceptions.md R185, R186 (the tick's place is the spec's decision D12, log entry 14): a tick writes nothing but
DT, ST and the divider's counter, and calls no port, but that the tick which takes ST from 1 to 0 emits `stop_tone`. -/
def Obligations.TickEmitsStopTone : Prop :=
  ∀ s : State,
    s.tick.ports = { s.ports with trace := s.ports.trace ++ (if s.tickcnt = 7 ∧ s.st = 1 then [.stopTone] else []) } ∧
    SameRegsBut [] s s.tick ∧ SameMem s s.tick ∧ SameStack s s.tick ∧ SameStatus s s.tick ∧ s.tick.pc = s.pc ∧
    s.tick.i = s.i

/-! ### Invariants -/

/-- Every step keeps the invariant of Safety.lean: canonical Memory (log entry 2), halted exactly while a cause is
latched with its detail (60_exceptions.md R170 to R174), return addresses in 0x0202 to 0x1000 and slot 15 unused (R182,
10_state.md R20), the audio events alternating with ST (60_exceptions.md R186), a key awaited only at LD Vx,K
(10_state.md R26). -/
def Obligations.StepKeepsInvariant : Prop :=
  ∀ s t : State, Invariant s → step s = .next t → Invariant t

/-- 10_state.md R30, 70_reset_and_hazards.md R200, R201: the reset state meets the invariant, and so does a machine reset
in mid-run. It rests on the zeros of the spec's decision D6 (log entry 5), on Memory's reset contents (D7, log entry 2)
and, for the tone after a reset in mid-run, on the trace beginning again, which is the model's choice (log entry 17). -/
def Obligations.ResetMeetsInvariant : Prop :=
  Invariant State.reset ∧ ∀ s : State, Invariant s.resetCore

/-- 70_reset_and_hazards.md R202: loading a program keeps the invariant (a machine that awaits a key is past its
loading, R203). -/
def Obligations.LoadProgramKeepsInvariant : Prop :=
  ∀ (s t : State) (image : List Byte), Invariant s → s.run ≠ .awaitingKey → s.loadProgram image = .next t → Invariant t

/-! ### Whole-machine rules -/

/-- 10_state.md R25: the PC every execute phase leaves that a fault did not end, and that of the unrecognised word. The
target of RET is the slot at SP - 1 (the spec's decision D8, log entry 13), that of JP V0 the unreduced sum (D17, log
entry 12), and the unanswered key wait is the polling form (D14, log entry 22). -/
def Obligations.PcAdvancesByItsClass : Prop :=
  (∀ (i : Instr) (s t : State), exec i s = .next t → t.run ≠ .halted → pcAfter i s t) ∧
  (∀ s : State, s.unrecognisedWord.pc = s.pc + 2)

/-- 10_state.md R22: what the execute phase of each instruction writes, and nothing else. Bytes: only LD B,Vx and
LD [I],Vx store, 3 and x + 1 of them from I upward. Slots: only CALL writes one, the slot at SP. The port side (whose
settled answers are the model's, log entry 8): each instruction makes only its own port's calls, and uses up or changes
no answer of another port. No instruction writes the tick divider or the pulse. -/
def Obligations.ExecWritesOnlyItsRow : Prop :=
  ∀ (i : Instr) (s t : State), exec i s = .next t →
    SameRegsBut (writtenRegs i) s t ∧ SameMemOutside (s.effectiveAddr 0) (bytesStored i) s t ∧
    (usesStack i = false → t.sp = s.sp) ∧
    (∀ k, (∀ a, i ≠ .callAddr a) ∨ k ≠ s.sp → t.readSlot k = s.readSlot k) ∧
    (writesI i = false → t.i = s.i) ∧ ((∀ x, i ≠ .ldDtVx x) → t.dt = s.dt) ∧ ((∀ x, i ≠ .ldStVx x) → t.st = s.st) ∧
    t.tickcnt = s.tickcnt ∧ t.unrecognised = s.unrecognised ∧
    (canFault i = false → t.fault = s.fault ∧ t.faultInfo = s.faultInfo) ∧
    (canFault i = false → (∀ x, i ≠ .ldVxK x) → t.run = s.run) ∧
    (usesPort i = false → SamePorts s t) ∧ SameKeys s t ∧ (usesDisplay i = false → SameScreen s t) ∧
    ((∀ x, i ≠ .ldVxK x) → SamePolls s t) ∧ ((∀ x b, i ≠ .rndVxByte x b) → SameRandoms s t) ∧
    ∃ calls, t.ports.trace = s.ports.trace ++ calls ∧ ∀ c ∈ calls, makesCall i c = true

/-- 10_state.md R27: no instruction reads or writes `TICKCNT`: changing it changes nothing else of any result. -/
def Obligations.TickCounterIsUnobservable : Prop :=
  ∀ (i : Instr) (s t : State) (c : BitVec 3), exec i s = .next t →
    exec i (s.setTickcnt c) = .next (t.setTickcnt c)

/-- 10_state.md R17, R22: only LD ST,Vx depends on ST: changing ST changes nothing else of any other result. -/
def Obligations.SoundTimerIsUnreadable : Prop :=
  ∀ (i : Instr) (s t : State) (b : Byte), (∀ x, i ≠ .ldStVx x) → exec i s = .next t →
    exec i { s with st := b } = .next { t with st := b }

/-- 10_state.md R21 (the spec's decision D28): a slot at or above SP holds a value no instruction observes: changing it
changes nothing but that slot. -/
def Obligations.StaleSlotsAreUnobservable : Prop :=
  ∀ (i : Instr) (s t : State) (k : BitVec 4) (w : Word), s.sp.toNat ≤ k.toNat → exec i s = .next t →
    ∃ t', exec i (s.writeSlot k w) = .next t' ∧ t' = { t with stack := t'.stack } ∧
      ∀ j, j ≠ k → t'.readSlot j = t.readSlot j

/-- 20_memory.md R52, 70_reset_and_hazards.md R217: bytes LD [I],Vx stores where the next instruction stands are the
word the next cycle fetches. -/
def Obligations.StoredCodeIsFetched : Prop :=
  ∀ (s : State) (x : Reg), s.mem.wf = true → 1 ≤ x.toNat → s.i = s.pc + 2 → s.i.toNat + x.toNat + 1 ≤ 4096 →
    ∃ t, exec (.ldMemVx x) s = .next t ∧ t.pc = s.pc + 2 ∧
      t.fetchWord.toNat = 256 * (s.readV 0).toNat + (s.readV 1).toNat

/-! ### Register loads and the ALU -/

/-- 41_alu.md R121: LD Vx,byte, every word `6xkk`: the register holds the immediate, PC + 2, nothing else changes (VF
neither, unless x is 15). -/
def Obligations.LoadImmediate : Prop :=
  ∀ (s : State) (x : Reg) (b : Byte),
    decodeWord (BitVec.ofNat 16 (0x6000 + 256 * x.toNat + b.toNat)) = .instr (.ldVxByte x b) ∧
    ∃ t, exec (.ldVxByte x b) s = .next t ∧ t.readV x = b ∧ t.pc = s.pc + 2 ∧ OnlyRegs [x] s t

/-- 41_alu.md R122: ADD Vx,byte wraps modulo 256 and writes no flag. -/
def Obligations.AddImmediate : Prop :=
  ∀ (s : State) (x : Reg) (b : Byte), ∃ t, exec (.addVxByte x b) s = .next t ∧
    (t.readV x).toNat = ((s.readV x).toNat + b.toNat) % 256 ∧ t.pc = s.pc + 2 ∧ OnlyRegs [x] s t

/-- 41_alu.md R123 to R126 (that OR, AND, XOR leave VF alone is the spec's decision D15, log entry 22): the copy and the
three bitwise operations, bit by bit; nothing but Vx and PC changes. -/
def Obligations.CopyAndLogic : Prop :=
  ∀ (s : State) (x y : Reg),
    (∃ t, exec (.ldVxVy x y) s = .next t ∧ t.readV x = s.readV y ∧ t.pc = s.pc + 2 ∧ OnlyRegs [x] s t) ∧
    (∃ t, exec (.orVxVy x y) s = .next t ∧
      (∀ k, (t.readV x).getLsbD k = ((s.readV x).getLsbD k || (s.readV y).getLsbD k)) ∧ t.pc = s.pc + 2 ∧
      OnlyRegs [x] s t) ∧
    (∃ t, exec (.andVxVy x y) s = .next t ∧
      (∀ k, (t.readV x).getLsbD k = ((s.readV x).getLsbD k && (s.readV y).getLsbD k)) ∧ t.pc = s.pc + 2 ∧
      OnlyRegs [x] s t) ∧
    (∃ t, exec (.xorVxVy x y) s = .next t ∧
      (∀ k, (t.readV x).getLsbD k = ((s.readV x).getLsbD k ^^ (s.readV y).getLsbD k)) ∧ t.pc = s.pc + 2 ∧
      OnlyRegs [x] s t)

/-- 41_alu.md R127: ADD Vx,Vy, every word `8xy4`: Vx gets the sum modulo 256 and VF is 1 iff the sum exceeds 255; with
x = 15 the flag is what remains. -/
def Obligations.AddRegisters : Prop :=
  ∀ (s : State) (x y : Reg),
    decodeWord (BitVec.ofNat 16 (0x8004 + 256 * x.toNat + 16 * y.toNat)) = .instr (.addVxVy x y) ∧
    ∃ t, exec (.addVxVy x y) s = .next t ∧
      (x ≠ 15 → (t.readV x).toNat = ((s.readV x).toNat + (s.readV y).toNat) % 256) ∧
      (t.readV 15).toNat = (if 255 < (s.readV x).toNat + (s.readV y).toNat then 1 else 0) ∧
      t.pc = s.pc + 2 ∧ OnlyRegs [x, 15] s t

/-- 41_alu.md R128, R130, R132 (operands as read before either write: the spec's decision D31): SUB and SUBN wrap modulo
256 and VF is 1 iff there is no borrow, equal operands included. -/
def Obligations.SubtractRegisters : Prop :=
  ∀ (s : State) (x y : Reg),
    (∃ t, exec (.subVxVy x y) s = .next t ∧
      (x ≠ 15 → (t.readV x).toNat = ((s.readV x).toNat + 256 - (s.readV y).toNat) % 256) ∧
      (t.readV 15).toNat = (if (s.readV y).toNat ≤ (s.readV x).toNat then 1 else 0) ∧
      t.pc = s.pc + 2 ∧ OnlyRegs [x, 15] s t) ∧
    (∃ t, exec (.subnVxVy x y) s = .next t ∧
      (x ≠ 15 → (t.readV x).toNat = ((s.readV y).toNat + 256 - (s.readV x).toNat) % 256) ∧
      (t.readV 15).toNat = (if (s.readV x).toNat ≤ (s.readV y).toNat then 1 else 0) ∧
      t.pc = s.pc + 2 ∧ OnlyRegs [x, 15] s t)

/-- 41_alu.md R129, R131, 30_encoding.md R78: SHR and SHL move Vx by one bit and VF gets the bit shifted out, whatever
the y field is. -/
def Obligations.ShiftByOne : Prop :=
  ∀ (s : State) (x y : Reg),
    (∃ t, exec (.shrVx x y) s = .next t ∧ (x ≠ 15 → (t.readV x).toNat = (s.readV x).toNat / 2) ∧
      (t.readV 15).toNat = (s.readV x).toNat % 2 ∧ t.pc = s.pc + 2 ∧ OnlyRegs [x, 15] s t) ∧
    (∃ t, exec (.shlVx x y) s = .next t ∧ (x ≠ 15 → (t.readV x).toNat = (s.readV x).toNat * 2 % 256) ∧
      (t.readV 15).toNat = (s.readV x).toNat / 128 ∧ t.pc = s.pc + 2 ∧ OnlyRegs [x, 15] s t)

/-- 10_state.md R12, R14, 70_reset_and_hazards.md R216 (operands read before either write: the spec's decision D31; the
coordinates a DRW passes and its n = 0: D20; log entry 22): with x = 15 the flag, computed from the operands as they were, is what VF holds after ADD, SUB,
SUBN, SHR and SHL; and after a DRW that no fault ended it is the collision flag of the rows drawn. -/
def Obligations.FlagRemainsInVf : Prop :=
  ∀ (s : State) (y : Reg),
    (∀ t, exec (.addVxVy 15 y) s = .next t →
      (t.readV 15).toNat = if 255 < (s.readV 15).toNat + (s.readV y).toNat then 1 else 0) ∧
    (∀ t, exec (.subVxVy 15 y) s = .next t →
      (t.readV 15).toNat = if (s.readV y).toNat ≤ (s.readV 15).toNat then 1 else 0) ∧
    (∀ t, exec (.subnVxVy 15 y) s = .next t →
      (t.readV 15).toNat = if (s.readV 15).toNat ≤ (s.readV y).toNat then 1 else 0) ∧
    (∀ t, exec (.shrVx 15 y) s = .next t → (t.readV 15).toNat = (s.readV 15).toNat % 2) ∧
    (∀ t, exec (.shlVx 15 y) s = .next t → (t.readV 15).toNat = (s.readV 15).toNat / 128) ∧
    (∀ n t, exec (.drwVxVyN 15 y n) s = .next t → t.run ≠ .halted →
      ∃ cs, t.ports.trace = s.ports.trace ++ rowCalls s (s.effectiveAddr 0) (s.readV 15) (s.readV y) cs ∧
        (t.readV 15).toNat = if true ∈ cs then 1 else 0)

/-! ### Control transfer -/

/-- 40_flow.md R101, R108 (that the sum of R108 is not reduced to 12 bits is the spec's decision D17, log entry 12): the
two jumps write the target to PC and nothing else, whatever the target is. -/
def Obligations.Jumps : Prop :=
  ∀ (s : State) (a : Addr),
    (∃ t, exec (.jpAddr a) s = .next t ∧ t.pc.toNat = a.toNat ∧ OnlyRegs [] s t) ∧
    (∃ t, exec (.jpV0Addr a) s = .next t ∧ t.pc.toNat = a.toNat + (s.readV 0).toNat ∧ OnlyRegs [] s t)

/-- 40_flow.md R102, 60_exceptions.md R180 (the depth is the spec's decision D8, log entry 13): a CALL with room on the
stack stores PC + 2 in the free slot, counts SP up and jumps; the other slots are unchanged. -/
def Obligations.CallPushesReturnAddress : Prop :=
  ∀ (s : State) (a : Addr), s.sp ≠ 15 → ∃ t, exec (.callAddr a) s = .next t ∧ t.pc.toNat = a.toNat ∧
    t.readSlot s.sp = s.pc + 2 ∧ t.sp.toNat = s.sp.toNat + 1 ∧ (∀ k, k ≠ s.sp → t.readSlot k = s.readSlot k) ∧
    SameRegsBut [] s t ∧ SameMem s t ∧ SameTimers s t ∧ SameStatus s t ∧ SamePorts s t ∧ t.i = s.i

/-- 40_flow.md R100, 60_exceptions.md R181 (SP's convention is the spec's decision D8): a RET with something on the
stack counts SP down and jumps to the address in that slot, which keeps it. -/
def Obligations.RetPopsReturnAddress : Prop :=
  ∀ s : State, s.sp ≠ 0 → ∃ t, exec .ret s = .next t ∧ t.sp.toNat + 1 = s.sp.toNat ∧ t.pc = s.readSlot t.sp ∧
    (∀ k, t.readSlot k = s.readSlot k) ∧
    SameRegsBut [] s t ∧ SameMem s t ∧ SameTimers s t ∧ SameStatus s t ∧ SamePorts s t ∧ t.i = s.i

/-- 60_exceptions.md R171, R176, R180, R181 (the spec's decisions D8, D9, D21; log entries 1, 13): a CALL at SP = 15 and
a RET at SP = 0 change nothing but `FAULT`, `FAULT_INFO` and `RUN`. -/
def Obligations.StackLimitsHalt : Prop :=
  (∀ (s : State) (a : Addr), s.sp = 15 →
    ∃ t, exec (.callAddr a) s = .next t ∧ RaisedFrom s t .addressOutOfBounds .stackPush 15) ∧
  (∀ s : State, s.sp = 0 → ∃ t, exec .ret s = .next t ∧ RaisedFrom s t .addressOutOfBounds .stackPop 0)

/-- 95_test_vectors.md S6, 60_exceptions.md R182: a CALL followed at once by a RET restores PC to the instruction after
the CALL, and SP; nothing else but the freed slot differs. -/
def Obligations.CallThenRetReturns : Prop :=
  ∀ (s : State) (a : Addr), s.sp ≠ 15 → ∃ t u, exec (.callAddr a) s = .next t ∧ exec .ret t = .next u ∧
    u = { s with pc := s.pc + 2, stack := u.stack } ∧ ∀ k, k ≠ s.sp → u.readSlot k = s.readSlot k

/-- 40_flow.md R103 to R107: the four register skips: PC + 4 iff the condition holds, else PC + 2, and nothing else. -/
def Obligations.RegisterSkips : Prop :=
  ∀ (s : State) (x y : Reg) (b : Byte),
    (∃ t, exec (.seVxByte x b) s = .next t ∧ OnlyRegs [] s t ∧
      t.pc = if s.readV x = b then s.pc + 4 else s.pc + 2) ∧
    (∃ t, exec (.sneVxByte x b) s = .next t ∧ OnlyRegs [] s t ∧
      t.pc = if s.readV x = b then s.pc + 2 else s.pc + 4) ∧
    (∃ t, exec (.seVxVy x y) s = .next t ∧ OnlyRegs [] s t ∧
      t.pc = if s.readV x = s.readV y then s.pc + 4 else s.pc + 2) ∧
    (∃ t, exec (.sneVxVy x y) s = .next t ∧ OnlyRegs [] s t ∧
      t.pc = if s.readV x = s.readV y then s.pc + 2 else s.pc + 4)

/-- 44_io.md R163, R164, 20_memory.md R58 (where the answer comes from is the model's, log entries 7, 8; that above 15
it is unconstrained is the spec's decision D19): each key skip asks once, for the value in Vx, and skips by the answer;
the answer for a key 0 to 15 is the host's when the host has settled it; the call changes nothing of the Input's state
and no other port's. -/
def Obligations.KeySkips : Prop :=
  ∀ (s : State) (x : Reg),
    (∃ t d, exec (.skpVx x) s = .next t ∧ t.ports.trace = s.ports.trace ++ [.isKeyDown (s.readV x) d] ∧
      (t.pc = if d = true then s.pc + 4 else s.pc + 2) ∧ OnlyRegsAndPorts [] s t ∧
      SameScreen s t ∧ SameKeys s t ∧ SamePolls s t ∧ SameRandoms s t ∧
      ∀ held, s.ports.keys = some held → (s.readV x).toNat ≤ 15 → d = held.getLsbD (s.readV x).toNat) ∧
    (∃ t d, exec (.sknpVx x) s = .next t ∧ t.ports.trace = s.ports.trace ++ [.isKeyDown (s.readV x) d] ∧
      (t.pc = if d = true then s.pc + 2 else s.pc + 4) ∧ OnlyRegsAndPorts [] s t ∧
      SameScreen s t ∧ SameKeys s t ∧ SamePolls s t ∧ SameRandoms s t ∧
      ∀ held, s.ports.keys = some held → (s.readV x).toNat ≤ 15 → d = held.getLsbD (s.readV x).toNat)

/-! ### I and Memory -/

/-- 42_index_memory.md R140 to R142 (wrapping at 65536 and the unmasked glyph number are the spec's decisions D17, D18;
log entries 12, 22): the three instructions that write I; VF is not touched. -/
def Obligations.IndexRegisterWrites : Prop :=
  ∀ (s : State) (x : Reg) (a : Addr),
    (∃ t, exec (.ldIAddr a) s = .next t ∧ t.i.toNat = a.toNat ∧ t.pc = s.pc + 2 ∧ OnlyRegs [] s { t with i := s.i }) ∧
    (∃ t, exec (.addIVx x) s = .next t ∧ t.i.toNat = (s.i.toNat + (s.readV x).toNat) % 65536 ∧ t.pc = s.pc + 2 ∧
      OnlyRegs [] s { t with i := s.i }) ∧
    (∃ t, exec (.ldFVx x) s = .next t ∧ t.i.toNat = (s.readV x).toNat * 5 ∧ t.pc = s.pc + 2 ∧
      OnlyRegs [] s { t with i := s.i })

/-- 42_index_memory.md R143, R146: LD B,Vx stores the three decimal digits at I, I + 1, I + 2 and nothing else. -/
def Obligations.DecimalDigitsStored : Prop :=
  ∀ (s : State) (x : Reg), s.mem.wf = true → s.effectiveAddr 0 + 3 ≤ 4096 → ∃ t, exec (.ldBVx x) s = .next t ∧
    (t.byteAt (s.effectiveAddr 0)).toNat = (s.readV x).toNat / 100 ∧
    (t.byteAt (s.effectiveAddr 1)).toNat = (s.readV x).toNat / 10 % 10 ∧
    (t.byteAt (s.effectiveAddr 2)).toNat = (s.readV x).toNat % 10 ∧
    t.pc = s.pc + 2 ∧ OnlyMemAt (s.effectiveAddr 0) 3 s t

/-- 42_index_memory.md R144, R146 (I unchanged is the spec's decision D16, log entry 22): LD [I],Vx stores V0 to Vx at I
upward and nothing else. -/
def Obligations.RegistersStored : Prop :=
  ∀ (s : State) (x : Reg), s.mem.wf = true → s.effectiveAddr x.toNat < 4096 → ∃ t, exec (.ldMemVx x) s = .next t ∧
    (∀ r : Reg, r.toNat ≤ x.toNat → t.byteAt (s.effectiveAddr r.toNat) = s.readV r) ∧
    t.pc = s.pc + 2 ∧ OnlyMemAt (s.effectiveAddr 0) (x.toNat + 1) s t

/-- 42_index_memory.md R145, R146 (I unchanged is the spec's decision D16, log entry 22): LD Vx,[I] loads V0 to Vx from
I upward; the registers above Vx, Memory and I are unchanged. -/
def Obligations.RegistersLoaded : Prop :=
  ∀ (s : State) (x : Reg), s.effectiveAddr x.toNat < 4096 → ∃ t, exec (.ldVxMem x) s = .next t ∧
    (∀ r : Reg, t.readV r = if r.toNat ≤ x.toNat then s.byteAt (s.effectiveAddr r.toNat) else s.readV r) ∧
    t.pc = s.pc + 2 ∧ OnlyRegs (writtenRegs (.ldVxMem x)) s t

/-- 42_index_memory.md R143, R144, 60_exceptions.md R171, R176 (the spec's decisions D10, D17, D21; log entries 1, 12,
23): a store that runs past Memory leaves stored the bytes below `MEM_SIZE`, and halts at the first address that is
not; PC is not advanced. -/
def Obligations.StorePastMemoryHalts : Prop :=
  (∀ (s : State) (x : Reg), s.mem.wf = true → 4096 < s.effectiveAddr 0 + 3 → ∃ t, exec (.ldBVx x) s = .next t ∧
    LatchedFrom s t .addressOutOfBounds .memWrite (max (s.effectiveAddr 0) 4096) ∧
    (∀ k (h : k < (decimalDigits (s.readV x)).length), s.effectiveAddr k < 4096 →
      t.byteAt (s.effectiveAddr k) = (decimalDigits (s.readV x))[k]) ∧
    SameMemOutside (s.effectiveAddr 0) (4096 - s.effectiveAddr 0) s t ∧
    SameRegsBut [] s t ∧ SameStack s t ∧ SameTimers s t ∧ SamePorts s t ∧ t.i = s.i) ∧
  (∀ (s : State) (x : Reg), s.mem.wf = true → 4096 ≤ s.effectiveAddr x.toNat → ∃ t, exec (.ldMemVx x) s = .next t ∧
    LatchedFrom s t .addressOutOfBounds .memWrite (max (s.effectiveAddr 0) 4096) ∧
    (∀ r : Reg, r.toNat ≤ x.toNat → s.effectiveAddr r.toNat < 4096 →
      t.byteAt (s.effectiveAddr r.toNat) = s.readV r) ∧
    SameMemOutside (s.effectiveAddr 0) (4096 - s.effectiveAddr 0) s t ∧
    SameRegsBut [] s t ∧ SameStack s t ∧ SameTimers s t ∧ SamePorts s t ∧ t.i = s.i)

/-- 42_index_memory.md R145, 60_exceptions.md R171, R176 (the spec's decisions D10, D17, D21; log entries 1, 12, 23): a
load that runs past Memory leaves loaded the registers whose byte lies in it, and halts at the first address that does
not; PC is not advanced. -/
def Obligations.LoadPastMemoryHalts : Prop :=
  ∀ (s : State) (x : Reg), 4096 ≤ s.effectiveAddr x.toNat → ∃ t, exec (.ldVxMem x) s = .next t ∧
    LatchedFrom s t .addressOutOfBounds .memRead (max (s.effectiveAddr 0) 4096) ∧
    (∀ r : Reg, t.readV r =
      if r.toNat ≤ x.toNat ∧ s.effectiveAddr r.toNat < 4096 then s.byteAt (s.effectiveAddr r.toNat) else s.readV r) ∧
    SameMem s t ∧ SameStack s t ∧ SameTimers s t ∧ SamePorts s t ∧ t.i = s.i

/-! ### Timers and ports -/

/-- 43_timers.md R150 to R152, 60_exceptions.md R186 (that the write of ST emits the edge is the spec's decision D13):
the three timer transfers; none touches the tick divider. -/
def Obligations.TimerTransfers : Prop :=
  ∀ (s : State) (x : Reg),
    (∃ t, exec (.ldVxDt x) s = .next t ∧ t.readV x = s.dt ∧ t.pc = s.pc + 2 ∧ OnlyRegs [x] s t) ∧
    (∃ t, exec (.ldDtVx x) s = .next t ∧ t.dt = s.readV x ∧ t.pc = s.pc + 2 ∧ OnlyRegs [] s { t with dt := s.dt }) ∧
    (∃ t, exec (.ldStVx x) s = .next t ∧ t.st = s.readV x ∧ t.pc = s.pc + 2 ∧
      t.ports.trace = s.ports.trace ++ (if s.st = 0 ∧ s.readV x ≠ 0 then [.startTone]
        else if s.st ≠ 0 ∧ s.readV x = 0 then [.stopTone] else []) ∧
      OnlyRegs [] s { t with st := s.st, ports := { t.ports with trace := s.ports.trace } })

/-- 44_io.md R160: CLS, the word `00E0`: exactly one `Display.clear()`, PC + 2; nothing else of the machine changes. -/
def Obligations.ClearDisplay : Prop :=
  decodeWord 0x00E0 = .instr .cls ∧
  ∀ s : State, ∃ t, exec .cls s = .next t ∧ t.ports.trace = s.ports.trace ++ [.clear] ∧ t.pc = s.pc + 2 ∧
    OnlyRegs [] s { t with ports := { t.ports with trace := s.ports.trace, screen := s.ports.screen } }

/-- 20_memory.md R55, R57 (the reference Display: G3, D24, log entry 10): CLS sets every pixel of an attached Display off;
it attaches none. -/
def Obligations.ReferenceDisplayClears : Prop :=
  ∀ s : State, ∃ t, exec .cls s = .next t ∧ (s.ports.screen = none → t.ports.screen = none) ∧
    ∀ f, s.ports.screen = some f → ∃ g, t.ports.screen = some g ∧ ∀ px py, g.pixel px py = false

/-- 44_io.md R161, 20_memory.md R62 (where the byte comes from is the model's, log entries 7, 8): RND calls the port
once and Vx gets the byte masked by the immediate; a byte the host has settled is the one delivered. -/
def Obligations.RandomByteIsMasked : Prop :=
  ∀ (s : State) (x : Reg) (b : Byte), ∃ t r, exec (.rndVxByte x b) s = .next t ∧
    t.ports.trace = s.ports.trace ++ [.randomByte r] ∧ t.readV x = b &&& r ∧ t.pc = s.pc + 2 ∧
    OnlyRegsAndPorts [x] s t ∧ SameScreen s t ∧ SameKeys s t ∧ SamePolls s t ∧
    (∀ c rest, s.ports.randoms = c :: rest → r = c ∧ t.ports.randoms = rest)

/-- 44_io.md R162, 20_memory.md R56 (that the core passes the coordinates whole and that n = 0 draws nothing are the
spec's decision D20): a sprite that lies in Memory: one call a row in ascending order at `(V[x], V[y] + row)`, VF 1 iff
one of them answered a collision, PC + 2, nothing else of the machine and no other port. A row byte of 0 reports none,
on an abstract Display too (R56). -/
def Obligations.SpriteDrawn : Prop :=
  ∀ (s : State) (x y : Reg) (n : Nibble), n = 0 ∨ s.effectiveAddr n.toNat ≤ 4096 →
    ∃ t cs, exec (.drwVxVyN x y n) s = .next t ∧ cs.length = n.toNat ∧
      t.ports.trace = s.ports.trace ++ rowCalls s (s.effectiveAddr 0) (s.readV x) (s.readV y) cs ∧
      (t.readV 15).toNat = (if true ∈ cs then 1 else 0) ∧ t.pc = s.pc + 2 ∧ OnlyRegsAndPorts [15] s t ∧
      SameKeys s t ∧ SamePolls s t ∧ SameRandoms s t ∧ (s.ports.screen = none → t.ports.screen = none) ∧
      ∀ k (h : k < cs.length), s.byteAt (s.effectiveAddr k) = 0 → cs[k] = false

/-- 44_io.md R162, 60_exceptions.md R171, R176 (the spec's decisions D10, D17, D21; log entries 1, 12, 23): a sprite
that runs past Memory draws the rows that lie in it and halts at the first that does not; VF and PC are not written. -/
def Obligations.SpritePastMemoryHalts : Prop :=
  ∀ (s : State) (x y : Reg) (n : Nibble), n ≠ 0 → 4096 < s.effectiveAddr n.toNat →
    ∃ t cs, exec (.drwVxVyN x y n) s = .next t ∧ cs.length = 4096 - s.effectiveAddr 0 ∧
      LatchedFrom s t .addressOutOfBounds .memRead (max (s.effectiveAddr 0) 4096) ∧
      t.ports.trace = s.ports.trace ++ rowCalls s (s.effectiveAddr 0) (s.readV x) (s.readV y) cs ∧
      SameRegsBut [] s t ∧ SameMem s t ∧ SameStack s t ∧ SameTimers s t ∧ t.i = s.i ∧
      SameKeys s t ∧ SamePolls s t ∧ SameRandoms s t ∧ (s.ports.screen = none → t.ports.screen = none) ∧
      ∀ k (h : k < cs.length), s.byteAt (s.effectiveAddr k) = 0 → cs[k] = false

/-- 20_memory.md R57 (the geometry is the spec's general knowledge G3 and decision D24, log entry 10): one row drawn on
the reference Display flips exactly the pixels of the set bits, bit 7 leftmost, wrapped at both edges, and reports a
collision iff one of them was lit. -/
def Obligations.ReferenceDisplayXors : Prop :=
  ∀ (f : Screen) (x : Byte) (y : BitVec 9) (b : Byte),
    (∀ px py, px < 64 → py < 32 →
      ((py = y.toNat % 32 ∧ ∃ k < 8, px = (x.toNat + k) % 64 ∧ b.getLsbD (7 - k) = true) →
        (f.drawByte x y b).2.pixel px py = !f.pixel px py) ∧
      (¬(py = y.toNat % 32 ∧ ∃ k < 8, px = (x.toNat + k) % 64 ∧ b.getLsbD (7 - k) = true) →
        (f.drawByte x y b).2.pixel px py = f.pixel px py)) ∧
    ((f.drawByte x y b).1 = true ↔ ∃ k < 8, b.getLsbD (7 - k) = true ∧ f.pixel (x.toNat + k) y.toNat = true)

/-- 95_test_vectors.md S4, 44_io.md R162, 20_memory.md R57 (the reference Display: G3, D24, log entry 10): drawing a
sprite twice at one place restores the pixels, and the second draw's VF is 1 iff the first lit a pixel. -/
def Obligations.SpriteDrawnTwiceRestores : Prop :=
  ∀ (s : State) (x y : Reg) (n : Nibble) (f : Screen), s.ports.screen = some f → x ≠ 15 → y ≠ 15 →
    s.effectiveAddr n.toNat ≤ 4096 →
    ∃ t u, exec (.drwVxVyN x y n) s = .next t ∧ exec (.drwVxVyN x y n) t = .next u ∧ u.ports.screen = some f ∧
      ((u.readV 15 = 1) ↔ ∃ row < n.toNat, ∃ k < 8, (s.byteAt (s.effectiveAddr row)).getLsbD (7 - k) = true ∧
        f.pixel ((s.readV x).toNat + k) ((s.readV y).toNat + row) = false) ∧
      (u.readV 15 = 0 ∨ u.readV 15 = 1)

/-- 44_io.md R165, 20_memory.md R59 (the polling form is the spec's decision D14; where the answer comes from is the
model's, log entries 7, 8): LD Vx,K polls once; a key is loaded, PC advances and the instruction is complete; without
one nothing is written but `RUN`, and PC stays; no other port's answer is used up or changed. -/
def Obligations.KeyWaitPollsOnce : Prop :=
  ∀ (s : State) (x : Reg), ∃ t a, exec (.ldVxK x) s = .next t ∧ t.ports.trace = s.ports.trace ++ [.pollKey a] ∧
    (∀ k, a = some k →
      (t.readV x).toNat = k.toNat ∧ t.pc = s.pc + 2 ∧ t.run = .running ∧ SameRegsBut [x] s t) ∧
    (a = none → t.pc = s.pc ∧ t.run = .awaitingKey ∧ SameRegsBut [] s t) ∧
    (∀ b rest, s.ports.polls = b :: rest → a = b ∧ t.ports.polls = rest) ∧
    SameMem s t ∧ SameStack s t ∧ SameTimers s t ∧ t.i = s.i ∧ t.fault = s.fault ∧ t.faultInfo = s.faultInfo ∧
    t.unrecognised = s.unrecognised ∧ SameScreen s t ∧ SameKeys s t ∧ SameRandoms s t
end

