-- ==== Sys2Proof/Laws/State.lean ====
section
/-! SUPPORT. One lemma per field per update, true by rfl, so that no proof unfolds a record update; and what a register,
a slot and a byte read as after each update. -/

namespace Sys2Proof.Machine.Laws

variable (s : State)

/-! ### setPc -/

@[simp] theorem setPc_v (w : Word) : (s.setPc w).v = s.v := rfl
@[simp] theorem setPc_i (w : Word) : (s.setPc w).i = s.i := rfl
@[simp] theorem setPc_dt (w : Word) : (s.setPc w).dt = s.dt := rfl
@[simp] theorem setPc_st (w : Word) : (s.setPc w).st = s.st := rfl
@[simp] theorem setPc_pc (w : Word) : (s.setPc w).pc = w := rfl
@[simp] theorem setPc_sp (w : Word) : (s.setPc w).sp = s.sp := rfl
@[simp] theorem setPc_stack (w : Word) : (s.setPc w).stack = s.stack := rfl
@[simp] theorem setPc_tickcnt (w : Word) : (s.setPc w).tickcnt = s.tickcnt := rfl
@[simp] theorem setPc_run (w : Word) : (s.setPc w).run = s.run := rfl
@[simp] theorem setPc_fault (w : Word) : (s.setPc w).fault = s.fault := rfl
@[simp] theorem setPc_faultInfo (w : Word) : (s.setPc w).faultInfo = s.faultInfo := rfl
@[simp] theorem setPc_unrecognised (w : Word) : (s.setPc w).unrecognised = s.unrecognised := rfl
@[simp] theorem setPc_mem (w : Word) : (s.setPc w).mem = s.mem := rfl
@[simp] theorem setPc_ports (w : Word) : (s.setPc w).ports = s.ports := rfl
@[simp] theorem setPc_readV (w : Word) (z : Reg) : (s.setPc w).readV z = s.readV z := rfl
@[simp] theorem setPc_readSlot (w : Word) (z : BitVec 4) : (s.setPc w).readSlot z = s.readSlot z := rfl
@[simp] theorem setPc_byteAt (w : Word) (z : Nat) : (s.setPc w).byteAt z = s.byteAt z := rfl

/-! ### setI -/

@[simp] theorem setI_v (w : Word) : (s.setI w).v = s.v := rfl
@[simp] theorem setI_i (w : Word) : (s.setI w).i = w := rfl
@[simp] theorem setI_dt (w : Word) : (s.setI w).dt = s.dt := rfl
@[simp] theorem setI_st (w : Word) : (s.setI w).st = s.st := rfl
@[simp] theorem setI_pc (w : Word) : (s.setI w).pc = s.pc := rfl
@[simp] theorem setI_sp (w : Word) : (s.setI w).sp = s.sp := rfl
@[simp] theorem setI_stack (w : Word) : (s.setI w).stack = s.stack := rfl
@[simp] theorem setI_tickcnt (w : Word) : (s.setI w).tickcnt = s.tickcnt := rfl
@[simp] theorem setI_run (w : Word) : (s.setI w).run = s.run := rfl
@[simp] theorem setI_fault (w : Word) : (s.setI w).fault = s.fault := rfl
@[simp] theorem setI_faultInfo (w : Word) : (s.setI w).faultInfo = s.faultInfo := rfl
@[simp] theorem setI_unrecognised (w : Word) : (s.setI w).unrecognised = s.unrecognised := rfl
@[simp] theorem setI_mem (w : Word) : (s.setI w).mem = s.mem := rfl
@[simp] theorem setI_ports (w : Word) : (s.setI w).ports = s.ports := rfl
@[simp] theorem setI_readV (w : Word) (z : Reg) : (s.setI w).readV z = s.readV z := rfl
@[simp] theorem setI_readSlot (w : Word) (z : BitVec 4) : (s.setI w).readSlot z = s.readSlot z := rfl
@[simp] theorem setI_byteAt (w : Word) (z : Nat) : (s.setI w).byteAt z = s.byteAt z := rfl

/-! ### setDt -/

@[simp] theorem setDt_v (b : Byte) : (s.setDt b).v = s.v := rfl
@[simp] theorem setDt_i (b : Byte) : (s.setDt b).i = s.i := rfl
@[simp] theorem setDt_dt (b : Byte) : (s.setDt b).dt = b := rfl
@[simp] theorem setDt_st (b : Byte) : (s.setDt b).st = s.st := rfl
@[simp] theorem setDt_pc (b : Byte) : (s.setDt b).pc = s.pc := rfl
@[simp] theorem setDt_sp (b : Byte) : (s.setDt b).sp = s.sp := rfl
@[simp] theorem setDt_stack (b : Byte) : (s.setDt b).stack = s.stack := rfl
@[simp] theorem setDt_tickcnt (b : Byte) : (s.setDt b).tickcnt = s.tickcnt := rfl
@[simp] theorem setDt_run (b : Byte) : (s.setDt b).run = s.run := rfl
@[simp] theorem setDt_fault (b : Byte) : (s.setDt b).fault = s.fault := rfl
@[simp] theorem setDt_faultInfo (b : Byte) : (s.setDt b).faultInfo = s.faultInfo := rfl
@[simp] theorem setDt_unrecognised (b : Byte) : (s.setDt b).unrecognised = s.unrecognised := rfl
@[simp] theorem setDt_mem (b : Byte) : (s.setDt b).mem = s.mem := rfl
@[simp] theorem setDt_ports (b : Byte) : (s.setDt b).ports = s.ports := rfl
@[simp] theorem setDt_readV (b : Byte) (z : Reg) : (s.setDt b).readV z = s.readV z := rfl
@[simp] theorem setDt_readSlot (b : Byte) (z : BitVec 4) : (s.setDt b).readSlot z = s.readSlot z := rfl
@[simp] theorem setDt_byteAt (b : Byte) (z : Nat) : (s.setDt b).byteAt z = s.byteAt z := rfl

/-! ### setStRaw -/

@[simp] theorem setStRaw_v (b : Byte) : (s.setStRaw b).v = s.v := rfl
@[simp] theorem setStRaw_i (b : Byte) : (s.setStRaw b).i = s.i := rfl
@[simp] theorem setStRaw_dt (b : Byte) : (s.setStRaw b).dt = s.dt := rfl
@[simp] theorem setStRaw_st (b : Byte) : (s.setStRaw b).st = b := rfl
@[simp] theorem setStRaw_pc (b : Byte) : (s.setStRaw b).pc = s.pc := rfl
@[simp] theorem setStRaw_sp (b : Byte) : (s.setStRaw b).sp = s.sp := rfl
@[simp] theorem setStRaw_stack (b : Byte) : (s.setStRaw b).stack = s.stack := rfl
@[simp] theorem setStRaw_tickcnt (b : Byte) : (s.setStRaw b).tickcnt = s.tickcnt := rfl
@[simp] theorem setStRaw_run (b : Byte) : (s.setStRaw b).run = s.run := rfl
@[simp] theorem setStRaw_fault (b : Byte) : (s.setStRaw b).fault = s.fault := rfl
@[simp] theorem setStRaw_faultInfo (b : Byte) : (s.setStRaw b).faultInfo = s.faultInfo := rfl
@[simp] theorem setStRaw_unrecognised (b : Byte) : (s.setStRaw b).unrecognised = s.unrecognised := rfl
@[simp] theorem setStRaw_mem (b : Byte) : (s.setStRaw b).mem = s.mem := rfl
@[simp] theorem setStRaw_ports (b : Byte) : (s.setStRaw b).ports = s.ports := rfl
@[simp] theorem setStRaw_readV (b : Byte) (z : Reg) : (s.setStRaw b).readV z = s.readV z := rfl
@[simp] theorem setStRaw_readSlot (b : Byte) (z : BitVec 4) : (s.setStRaw b).readSlot z = s.readSlot z := rfl
@[simp] theorem setStRaw_byteAt (b : Byte) (z : Nat) : (s.setStRaw b).byteAt z = s.byteAt z := rfl

/-! ### setTickcnt -/

@[simp] theorem setTickcnt_v (c : BitVec 3) : (s.setTickcnt c).v = s.v := rfl
@[simp] theorem setTickcnt_i (c : BitVec 3) : (s.setTickcnt c).i = s.i := rfl
@[simp] theorem setTickcnt_dt (c : BitVec 3) : (s.setTickcnt c).dt = s.dt := rfl
@[simp] theorem setTickcnt_st (c : BitVec 3) : (s.setTickcnt c).st = s.st := rfl
@[simp] theorem setTickcnt_pc (c : BitVec 3) : (s.setTickcnt c).pc = s.pc := rfl
@[simp] theorem setTickcnt_sp (c : BitVec 3) : (s.setTickcnt c).sp = s.sp := rfl
@[simp] theorem setTickcnt_stack (c : BitVec 3) : (s.setTickcnt c).stack = s.stack := rfl
@[simp] theorem setTickcnt_tickcnt (c : BitVec 3) : (s.setTickcnt c).tickcnt = c := rfl
@[simp] theorem setTickcnt_run (c : BitVec 3) : (s.setTickcnt c).run = s.run := rfl
@[simp] theorem setTickcnt_fault (c : BitVec 3) : (s.setTickcnt c).fault = s.fault := rfl
@[simp] theorem setTickcnt_faultInfo (c : BitVec 3) : (s.setTickcnt c).faultInfo = s.faultInfo := rfl
@[simp] theorem setTickcnt_unrecognised (c : BitVec 3) : (s.setTickcnt c).unrecognised = s.unrecognised := rfl
@[simp] theorem setTickcnt_mem (c : BitVec 3) : (s.setTickcnt c).mem = s.mem := rfl
@[simp] theorem setTickcnt_ports (c : BitVec 3) : (s.setTickcnt c).ports = s.ports := rfl
@[simp] theorem setTickcnt_readV (c : BitVec 3) (z : Reg) : (s.setTickcnt c).readV z = s.readV z := rfl
@[simp] theorem setTickcnt_readSlot (c : BitVec 3) (z : BitVec 4) : (s.setTickcnt c).readSlot z = s.readSlot z := rfl
@[simp] theorem setTickcnt_byteAt (c : BitVec 3) (z : Nat) : (s.setTickcnt c).byteAt z = s.byteAt z := rfl

/-! ### setSp -/

@[simp] theorem setSp_v (p : BitVec 4) : (s.setSp p).v = s.v := rfl
@[simp] theorem setSp_i (p : BitVec 4) : (s.setSp p).i = s.i := rfl
@[simp] theorem setSp_dt (p : BitVec 4) : (s.setSp p).dt = s.dt := rfl
@[simp] theorem setSp_st (p : BitVec 4) : (s.setSp p).st = s.st := rfl
@[simp] theorem setSp_pc (p : BitVec 4) : (s.setSp p).pc = s.pc := rfl
@[simp] theorem setSp_sp (p : BitVec 4) : (s.setSp p).sp = p := rfl
@[simp] theorem setSp_stack (p : BitVec 4) : (s.setSp p).stack = s.stack := rfl
@[simp] theorem setSp_tickcnt (p : BitVec 4) : (s.setSp p).tickcnt = s.tickcnt := rfl
@[simp] theorem setSp_run (p : BitVec 4) : (s.setSp p).run = s.run := rfl
@[simp] theorem setSp_fault (p : BitVec 4) : (s.setSp p).fault = s.fault := rfl
@[simp] theorem setSp_faultInfo (p : BitVec 4) : (s.setSp p).faultInfo = s.faultInfo := rfl
@[simp] theorem setSp_unrecognised (p : BitVec 4) : (s.setSp p).unrecognised = s.unrecognised := rfl
@[simp] theorem setSp_mem (p : BitVec 4) : (s.setSp p).mem = s.mem := rfl
@[simp] theorem setSp_ports (p : BitVec 4) : (s.setSp p).ports = s.ports := rfl
@[simp] theorem setSp_readV (p : BitVec 4) (z : Reg) : (s.setSp p).readV z = s.readV z := rfl
@[simp] theorem setSp_readSlot (p : BitVec 4) (z : BitVec 4) : (s.setSp p).readSlot z = s.readSlot z := rfl
@[simp] theorem setSp_byteAt (p : BitVec 4) (z : Nat) : (s.setSp p).byteAt z = s.byteAt z := rfl

/-! ### setRun -/

@[simp] theorem setRun_v (r : Run) : (s.setRun r).v = s.v := rfl
@[simp] theorem setRun_i (r : Run) : (s.setRun r).i = s.i := rfl
@[simp] theorem setRun_dt (r : Run) : (s.setRun r).dt = s.dt := rfl
@[simp] theorem setRun_st (r : Run) : (s.setRun r).st = s.st := rfl
@[simp] theorem setRun_pc (r : Run) : (s.setRun r).pc = s.pc := rfl
@[simp] theorem setRun_sp (r : Run) : (s.setRun r).sp = s.sp := rfl
@[simp] theorem setRun_stack (r : Run) : (s.setRun r).stack = s.stack := rfl
@[simp] theorem setRun_tickcnt (r : Run) : (s.setRun r).tickcnt = s.tickcnt := rfl
@[simp] theorem setRun_run (r : Run) : (s.setRun r).run = r := rfl
@[simp] theorem setRun_fault (r : Run) : (s.setRun r).fault = s.fault := rfl
@[simp] theorem setRun_faultInfo (r : Run) : (s.setRun r).faultInfo = s.faultInfo := rfl
@[simp] theorem setRun_unrecognised (r : Run) : (s.setRun r).unrecognised = s.unrecognised := rfl
@[simp] theorem setRun_mem (r : Run) : (s.setRun r).mem = s.mem := rfl
@[simp] theorem setRun_ports (r : Run) : (s.setRun r).ports = s.ports := rfl
@[simp] theorem setRun_readV (r : Run) (z : Reg) : (s.setRun r).readV z = s.readV z := rfl
@[simp] theorem setRun_readSlot (r : Run) (z : BitVec 4) : (s.setRun r).readSlot z = s.readSlot z := rfl
@[simp] theorem setRun_byteAt (r : Run) (z : Nat) : (s.setRun r).byteAt z = s.byteAt z := rfl

/-! ### setPulse -/

@[simp] theorem setPulse_v (b : Bool) : (s.setPulse b).v = s.v := rfl
@[simp] theorem setPulse_i (b : Bool) : (s.setPulse b).i = s.i := rfl
@[simp] theorem setPulse_dt (b : Bool) : (s.setPulse b).dt = s.dt := rfl
@[simp] theorem setPulse_st (b : Bool) : (s.setPulse b).st = s.st := rfl
@[simp] theorem setPulse_pc (b : Bool) : (s.setPulse b).pc = s.pc := rfl
@[simp] theorem setPulse_sp (b : Bool) : (s.setPulse b).sp = s.sp := rfl
@[simp] theorem setPulse_stack (b : Bool) : (s.setPulse b).stack = s.stack := rfl
@[simp] theorem setPulse_tickcnt (b : Bool) : (s.setPulse b).tickcnt = s.tickcnt := rfl
@[simp] theorem setPulse_run (b : Bool) : (s.setPulse b).run = s.run := rfl
@[simp] theorem setPulse_fault (b : Bool) : (s.setPulse b).fault = s.fault := rfl
@[simp] theorem setPulse_faultInfo (b : Bool) : (s.setPulse b).faultInfo = s.faultInfo := rfl
@[simp] theorem setPulse_unrecognised (b : Bool) : (s.setPulse b).unrecognised = b := rfl
@[simp] theorem setPulse_mem (b : Bool) : (s.setPulse b).mem = s.mem := rfl
@[simp] theorem setPulse_ports (b : Bool) : (s.setPulse b).ports = s.ports := rfl
@[simp] theorem setPulse_readV (b : Bool) (z : Reg) : (s.setPulse b).readV z = s.readV z := rfl
@[simp] theorem setPulse_readSlot (b : Bool) (z : BitVec 4) : (s.setPulse b).readSlot z = s.readSlot z := rfl
@[simp] theorem setPulse_byteAt (b : Bool) (z : Nat) : (s.setPulse b).byteAt z = s.byteAt z := rfl

/-! ### setMem -/

@[simp] theorem setMem_v (m : Memory) : (s.setMem m).v = s.v := rfl
@[simp] theorem setMem_i (m : Memory) : (s.setMem m).i = s.i := rfl
@[simp] theorem setMem_dt (m : Memory) : (s.setMem m).dt = s.dt := rfl
@[simp] theorem setMem_st (m : Memory) : (s.setMem m).st = s.st := rfl
@[simp] theorem setMem_pc (m : Memory) : (s.setMem m).pc = s.pc := rfl
@[simp] theorem setMem_sp (m : Memory) : (s.setMem m).sp = s.sp := rfl
@[simp] theorem setMem_stack (m : Memory) : (s.setMem m).stack = s.stack := rfl
@[simp] theorem setMem_tickcnt (m : Memory) : (s.setMem m).tickcnt = s.tickcnt := rfl
@[simp] theorem setMem_run (m : Memory) : (s.setMem m).run = s.run := rfl
@[simp] theorem setMem_fault (m : Memory) : (s.setMem m).fault = s.fault := rfl
@[simp] theorem setMem_faultInfo (m : Memory) : (s.setMem m).faultInfo = s.faultInfo := rfl
@[simp] theorem setMem_unrecognised (m : Memory) : (s.setMem m).unrecognised = s.unrecognised := rfl
@[simp] theorem setMem_mem (m : Memory) : (s.setMem m).mem = m := rfl
@[simp] theorem setMem_ports (m : Memory) : (s.setMem m).ports = s.ports := rfl
@[simp] theorem setMem_readV (m : Memory) (z : Reg) : (s.setMem m).readV z = s.readV z := rfl
@[simp] theorem setMem_readSlot (m : Memory) (z : BitVec 4) : (s.setMem m).readSlot z = s.readSlot z := rfl

/-! ### setPorts -/

@[simp] theorem setPorts_v (q : Ports) : (s.setPorts q).v = s.v := rfl
@[simp] theorem setPorts_i (q : Ports) : (s.setPorts q).i = s.i := rfl
@[simp] theorem setPorts_dt (q : Ports) : (s.setPorts q).dt = s.dt := rfl
@[simp] theorem setPorts_st (q : Ports) : (s.setPorts q).st = s.st := rfl
@[simp] theorem setPorts_pc (q : Ports) : (s.setPorts q).pc = s.pc := rfl
@[simp] theorem setPorts_sp (q : Ports) : (s.setPorts q).sp = s.sp := rfl
@[simp] theorem setPorts_stack (q : Ports) : (s.setPorts q).stack = s.stack := rfl
@[simp] theorem setPorts_tickcnt (q : Ports) : (s.setPorts q).tickcnt = s.tickcnt := rfl
@[simp] theorem setPorts_run (q : Ports) : (s.setPorts q).run = s.run := rfl
@[simp] theorem setPorts_fault (q : Ports) : (s.setPorts q).fault = s.fault := rfl
@[simp] theorem setPorts_faultInfo (q : Ports) : (s.setPorts q).faultInfo = s.faultInfo := rfl
@[simp] theorem setPorts_unrecognised (q : Ports) : (s.setPorts q).unrecognised = s.unrecognised := rfl
@[simp] theorem setPorts_mem (q : Ports) : (s.setPorts q).mem = s.mem := rfl
@[simp] theorem setPorts_ports (q : Ports) : (s.setPorts q).ports = q := rfl
@[simp] theorem setPorts_readV (q : Ports) (z : Reg) : (s.setPorts q).readV z = s.readV z := rfl
@[simp] theorem setPorts_readSlot (q : Ports) (z : BitVec 4) : (s.setPorts q).readSlot z = s.readSlot z := rfl
@[simp] theorem setPorts_byteAt (q : Ports) (z : Nat) : (s.setPorts q).byteAt z = s.byteAt z := rfl

/-! ### writeV -/

@[simp] theorem writeV_v (x : Reg) (b : Byte) : (s.writeV x b).v = s.v.set x.toNat b x.isLt := rfl
@[simp] theorem writeV_i (x : Reg) (b : Byte) : (s.writeV x b).i = s.i := rfl
@[simp] theorem writeV_dt (x : Reg) (b : Byte) : (s.writeV x b).dt = s.dt := rfl
@[simp] theorem writeV_st (x : Reg) (b : Byte) : (s.writeV x b).st = s.st := rfl
@[simp] theorem writeV_pc (x : Reg) (b : Byte) : (s.writeV x b).pc = s.pc := rfl
@[simp] theorem writeV_sp (x : Reg) (b : Byte) : (s.writeV x b).sp = s.sp := rfl
@[simp] theorem writeV_stack (x : Reg) (b : Byte) : (s.writeV x b).stack = s.stack := rfl
@[simp] theorem writeV_tickcnt (x : Reg) (b : Byte) : (s.writeV x b).tickcnt = s.tickcnt := rfl
@[simp] theorem writeV_run (x : Reg) (b : Byte) : (s.writeV x b).run = s.run := rfl
@[simp] theorem writeV_fault (x : Reg) (b : Byte) : (s.writeV x b).fault = s.fault := rfl
@[simp] theorem writeV_faultInfo (x : Reg) (b : Byte) : (s.writeV x b).faultInfo = s.faultInfo := rfl
@[simp] theorem writeV_unrecognised (x : Reg) (b : Byte) : (s.writeV x b).unrecognised = s.unrecognised := rfl
@[simp] theorem writeV_mem (x : Reg) (b : Byte) : (s.writeV x b).mem = s.mem := rfl
@[simp] theorem writeV_ports (x : Reg) (b : Byte) : (s.writeV x b).ports = s.ports := rfl
@[simp] theorem writeV_readSlot (x : Reg) (b : Byte) (z : BitVec 4) : (s.writeV x b).readSlot z = s.readSlot z := rfl
@[simp] theorem writeV_byteAt (x : Reg) (b : Byte) (z : Nat) : (s.writeV x b).byteAt z = s.byteAt z := rfl

/-! ### writeSlot -/

@[simp] theorem writeSlot_v (p : BitVec 4) (w : Word) : (s.writeSlot p w).v = s.v := rfl
@[simp] theorem writeSlot_i (p : BitVec 4) (w : Word) : (s.writeSlot p w).i = s.i := rfl
@[simp] theorem writeSlot_dt (p : BitVec 4) (w : Word) : (s.writeSlot p w).dt = s.dt := rfl
@[simp] theorem writeSlot_st (p : BitVec 4) (w : Word) : (s.writeSlot p w).st = s.st := rfl
@[simp] theorem writeSlot_pc (p : BitVec 4) (w : Word) : (s.writeSlot p w).pc = s.pc := rfl
@[simp] theorem writeSlot_sp (p : BitVec 4) (w : Word) : (s.writeSlot p w).sp = s.sp := rfl
@[simp] theorem writeSlot_stack (p : BitVec 4) (w : Word) : (s.writeSlot p w).stack = s.stack.set p.toNat w p.isLt := rfl
@[simp] theorem writeSlot_tickcnt (p : BitVec 4) (w : Word) : (s.writeSlot p w).tickcnt = s.tickcnt := rfl
@[simp] theorem writeSlot_run (p : BitVec 4) (w : Word) : (s.writeSlot p w).run = s.run := rfl
@[simp] theorem writeSlot_fault (p : BitVec 4) (w : Word) : (s.writeSlot p w).fault = s.fault := rfl
@[simp] theorem writeSlot_faultInfo (p : BitVec 4) (w : Word) : (s.writeSlot p w).faultInfo = s.faultInfo := rfl
@[simp] theorem writeSlot_unrecognised (p : BitVec 4) (w : Word) : (s.writeSlot p w).unrecognised = s.unrecognised := rfl
@[simp] theorem writeSlot_mem (p : BitVec 4) (w : Word) : (s.writeSlot p w).mem = s.mem := rfl
@[simp] theorem writeSlot_ports (p : BitVec 4) (w : Word) : (s.writeSlot p w).ports = s.ports := rfl
@[simp] theorem writeSlot_readV (p : BitVec 4) (w : Word) (z : Reg) : (s.writeSlot p w).readV z = s.readV z := rfl
@[simp] theorem writeSlot_byteAt (p : BitVec 4) (w : Word) (z : Nat) : (s.writeSlot p w).byteAt z = s.byteAt z := rfl

/-! ### raise -/

@[simp] theorem raise_v (c : Cause) (k : AccessKind) (a : Nat) : (s.raise c k a).v = s.v := rfl
@[simp] theorem raise_i (c : Cause) (k : AccessKind) (a : Nat) : (s.raise c k a).i = s.i := rfl
@[simp] theorem raise_dt (c : Cause) (k : AccessKind) (a : Nat) : (s.raise c k a).dt = s.dt := rfl
@[simp] theorem raise_st (c : Cause) (k : AccessKind) (a : Nat) : (s.raise c k a).st = s.st := rfl
@[simp] theorem raise_pc (c : Cause) (k : AccessKind) (a : Nat) : (s.raise c k a).pc = s.pc := rfl
@[simp] theorem raise_sp (c : Cause) (k : AccessKind) (a : Nat) : (s.raise c k a).sp = s.sp := rfl
@[simp] theorem raise_stack (c : Cause) (k : AccessKind) (a : Nat) : (s.raise c k a).stack = s.stack := rfl
@[simp] theorem raise_tickcnt (c : Cause) (k : AccessKind) (a : Nat) : (s.raise c k a).tickcnt = s.tickcnt := rfl
@[simp] theorem raise_run (c : Cause) (k : AccessKind) (a : Nat) : (s.raise c k a).run = .halted := rfl
@[simp] theorem raise_fault (c : Cause) (k : AccessKind) (a : Nat) : (s.raise c k a).fault = c := rfl
@[simp] theorem raise_faultInfo (c : Cause) (k : AccessKind) (a : Nat) : (s.raise c k a).faultInfo = ⟨k, BitVec.ofNat 17 a, s.pc⟩ := rfl
@[simp] theorem raise_unrecognised (c : Cause) (k : AccessKind) (a : Nat) : (s.raise c k a).unrecognised = s.unrecognised := rfl
@[simp] theorem raise_mem (c : Cause) (k : AccessKind) (a : Nat) : (s.raise c k a).mem = s.mem := rfl
@[simp] theorem raise_ports (c : Cause) (k : AccessKind) (a : Nat) : (s.raise c k a).ports = s.ports := rfl
@[simp] theorem raise_readV (c : Cause) (k : AccessKind) (a : Nat) (z : Reg) : (s.raise c k a).readV z = s.readV z := rfl
@[simp] theorem raise_readSlot (c : Cause) (k : AccessKind) (a : Nat) (z : BitVec 4) : (s.raise c k a).readSlot z = s.readSlot z := rfl
@[simp] theorem raise_byteAt (c : Cause) (k : AccessKind) (a : Nat) (z : Nat) : (s.raise c k a).byteAt z = s.byteAt z := rfl

/-! ### advance -/

@[simp] theorem advance_v : (s.advance).v = s.v := rfl
@[simp] theorem advance_i : (s.advance).i = s.i := rfl
@[simp] theorem advance_dt : (s.advance).dt = s.dt := rfl
@[simp] theorem advance_st : (s.advance).st = s.st := rfl
@[simp] theorem advance_pc : (s.advance).pc = s.pc + 2 := rfl
@[simp] theorem advance_sp : (s.advance).sp = s.sp := rfl
@[simp] theorem advance_stack : (s.advance).stack = s.stack := rfl
@[simp] theorem advance_tickcnt : (s.advance).tickcnt = s.tickcnt := rfl
@[simp] theorem advance_run : (s.advance).run = s.run := rfl
@[simp] theorem advance_fault : (s.advance).fault = s.fault := rfl
@[simp] theorem advance_faultInfo : (s.advance).faultInfo = s.faultInfo := rfl
@[simp] theorem advance_unrecognised : (s.advance).unrecognised = s.unrecognised := rfl
@[simp] theorem advance_mem : (s.advance).mem = s.mem := rfl
@[simp] theorem advance_ports : (s.advance).ports = s.ports := rfl
@[simp] theorem advance_readV (z : Reg) : (s.advance).readV z = s.readV z := rfl
@[simp] theorem advance_readSlot (z : BitVec 4) : (s.advance).readSlot z = s.readSlot z := rfl
@[simp] theorem advance_byteAt (z : Nat) : (s.advance).byteAt z = s.byteAt z := rfl

/-! ### skipIf -/

@[simp] theorem skipIf_v (c : Bool) : (s.skipIf c).v = s.v := rfl
@[simp] theorem skipIf_i (c : Bool) : (s.skipIf c).i = s.i := rfl
@[simp] theorem skipIf_dt (c : Bool) : (s.skipIf c).dt = s.dt := rfl
@[simp] theorem skipIf_st (c : Bool) : (s.skipIf c).st = s.st := rfl
@[simp] theorem skipIf_pc (c : Bool) : (s.skipIf c).pc = if c then s.pc + 4 else s.pc + 2 := rfl
@[simp] theorem skipIf_sp (c : Bool) : (s.skipIf c).sp = s.sp := rfl
@[simp] theorem skipIf_stack (c : Bool) : (s.skipIf c).stack = s.stack := rfl
@[simp] theorem skipIf_tickcnt (c : Bool) : (s.skipIf c).tickcnt = s.tickcnt := rfl
@[simp] theorem skipIf_run (c : Bool) : (s.skipIf c).run = s.run := rfl
@[simp] theorem skipIf_fault (c : Bool) : (s.skipIf c).fault = s.fault := rfl
@[simp] theorem skipIf_faultInfo (c : Bool) : (s.skipIf c).faultInfo = s.faultInfo := rfl
@[simp] theorem skipIf_unrecognised (c : Bool) : (s.skipIf c).unrecognised = s.unrecognised := rfl
@[simp] theorem skipIf_mem (c : Bool) : (s.skipIf c).mem = s.mem := rfl
@[simp] theorem skipIf_ports (c : Bool) : (s.skipIf c).ports = s.ports := rfl
@[simp] theorem skipIf_readV (c : Bool) (z : Reg) : (s.skipIf c).readV z = s.readV z := rfl
@[simp] theorem skipIf_readSlot (c : Bool) (z : BitVec 4) : (s.skipIf c).readSlot z = s.readSlot z := rfl
@[simp] theorem skipIf_byteAt (c : Bool) (z : Nat) : (s.skipIf c).byteAt z = s.byteAt z := rfl

/-! ### beginCycle -/

@[simp] theorem beginCycle_v : (s.beginCycle).v = s.v := rfl
@[simp] theorem beginCycle_i : (s.beginCycle).i = s.i := rfl
@[simp] theorem beginCycle_dt : (s.beginCycle).dt = s.dt := rfl
@[simp] theorem beginCycle_st : (s.beginCycle).st = s.st := rfl
@[simp] theorem beginCycle_pc : (s.beginCycle).pc = s.pc := rfl
@[simp] theorem beginCycle_sp : (s.beginCycle).sp = s.sp := rfl
@[simp] theorem beginCycle_stack : (s.beginCycle).stack = s.stack := rfl
@[simp] theorem beginCycle_tickcnt : (s.beginCycle).tickcnt = s.tickcnt := rfl
@[simp] theorem beginCycle_run : (s.beginCycle).run = .running := rfl
@[simp] theorem beginCycle_fault : (s.beginCycle).fault = s.fault := rfl
@[simp] theorem beginCycle_faultInfo : (s.beginCycle).faultInfo = s.faultInfo := rfl
@[simp] theorem beginCycle_unrecognised : (s.beginCycle).unrecognised = false := rfl
@[simp] theorem beginCycle_mem : (s.beginCycle).mem = s.mem := rfl
@[simp] theorem beginCycle_ports : (s.beginCycle).ports = s.ports := rfl
@[simp] theorem beginCycle_readV (z : Reg) : (s.beginCycle).readV z = s.readV z := rfl
@[simp] theorem beginCycle_readSlot (z : BitVec 4) : (s.beginCycle).readSlot z = s.readSlot z := rfl
@[simp] theorem beginCycle_byteAt (z : Nat) : (s.beginCycle).byteAt z = s.byteAt z := rfl

/-! ### unrecognisedWord -/

@[simp] theorem unrecognisedWord_v : (s.unrecognisedWord).v = s.v := rfl
@[simp] theorem unrecognisedWord_i : (s.unrecognisedWord).i = s.i := rfl
@[simp] theorem unrecognisedWord_dt : (s.unrecognisedWord).dt = s.dt := rfl
@[simp] theorem unrecognisedWord_st : (s.unrecognisedWord).st = s.st := rfl
@[simp] theorem unrecognisedWord_pc : (s.unrecognisedWord).pc = s.pc + 2 := rfl
@[simp] theorem unrecognisedWord_sp : (s.unrecognisedWord).sp = s.sp := rfl
@[simp] theorem unrecognisedWord_stack : (s.unrecognisedWord).stack = s.stack := rfl
@[simp] theorem unrecognisedWord_tickcnt : (s.unrecognisedWord).tickcnt = s.tickcnt := rfl
@[simp] theorem unrecognisedWord_run : (s.unrecognisedWord).run = s.run := rfl
@[simp] theorem unrecognisedWord_fault : (s.unrecognisedWord).fault = s.fault := rfl
@[simp] theorem unrecognisedWord_faultInfo : (s.unrecognisedWord).faultInfo = s.faultInfo := rfl
@[simp] theorem unrecognisedWord_unrecognised : (s.unrecognisedWord).unrecognised = true := rfl
@[simp] theorem unrecognisedWord_mem : (s.unrecognisedWord).mem = s.mem := rfl
@[simp] theorem unrecognisedWord_ports : (s.unrecognisedWord).ports = s.ports := rfl
@[simp] theorem unrecognisedWord_readV (z : Reg) : (s.unrecognisedWord).readV z = s.readV z := rfl
@[simp] theorem unrecognisedWord_readSlot (z : BitVec 4) : (s.unrecognisedWord).readSlot z = s.readSlot z := rfl
@[simp] theorem unrecognisedWord_byteAt (z : Nat) : (s.unrecognisedWord).byteAt z = s.byteAt z := rfl

/-! ### record -/

@[simp] theorem record_v (e : PortCall) : (s.record e).v = s.v := rfl
@[simp] theorem record_i (e : PortCall) : (s.record e).i = s.i := rfl
@[simp] theorem record_dt (e : PortCall) : (s.record e).dt = s.dt := rfl
@[simp] theorem record_st (e : PortCall) : (s.record e).st = s.st := rfl
@[simp] theorem record_pc (e : PortCall) : (s.record e).pc = s.pc := rfl
@[simp] theorem record_sp (e : PortCall) : (s.record e).sp = s.sp := rfl
@[simp] theorem record_stack (e : PortCall) : (s.record e).stack = s.stack := rfl
@[simp] theorem record_tickcnt (e : PortCall) : (s.record e).tickcnt = s.tickcnt := rfl
@[simp] theorem record_run (e : PortCall) : (s.record e).run = s.run := rfl
@[simp] theorem record_fault (e : PortCall) : (s.record e).fault = s.fault := rfl
@[simp] theorem record_faultInfo (e : PortCall) : (s.record e).faultInfo = s.faultInfo := rfl
@[simp] theorem record_unrecognised (e : PortCall) : (s.record e).unrecognised = s.unrecognised := rfl
@[simp] theorem record_mem (e : PortCall) : (s.record e).mem = s.mem := rfl
@[simp] theorem record_ports (e : PortCall) : (s.record e).ports = ⟨s.ports.screen, s.ports.keys, s.ports.polls, s.ports.randoms, s.ports.freeCount, s.ports.trace ++ [e]⟩ := rfl
@[simp] theorem record_readV (e : PortCall) (z : Reg) : (s.record e).readV z = s.readV z := rfl
@[simp] theorem record_readSlot (e : PortCall) (z : BitVec 4) : (s.record e).readSlot z = s.readSlot z := rfl
@[simp] theorem record_byteAt (e : PortCall) (z : Nat) : (s.record e).byteAt z = s.byteAt z := rfl

/-! ### countFree -/

@[simp] theorem countFree_v : (s.countFree).v = s.v := rfl
@[simp] theorem countFree_i : (s.countFree).i = s.i := rfl
@[simp] theorem countFree_dt : (s.countFree).dt = s.dt := rfl
@[simp] theorem countFree_st : (s.countFree).st = s.st := rfl
@[simp] theorem countFree_pc : (s.countFree).pc = s.pc := rfl
@[simp] theorem countFree_sp : (s.countFree).sp = s.sp := rfl
@[simp] theorem countFree_stack : (s.countFree).stack = s.stack := rfl
@[simp] theorem countFree_tickcnt : (s.countFree).tickcnt = s.tickcnt := rfl
@[simp] theorem countFree_run : (s.countFree).run = s.run := rfl
@[simp] theorem countFree_fault : (s.countFree).fault = s.fault := rfl
@[simp] theorem countFree_faultInfo : (s.countFree).faultInfo = s.faultInfo := rfl
@[simp] theorem countFree_unrecognised : (s.countFree).unrecognised = s.unrecognised := rfl
@[simp] theorem countFree_mem : (s.countFree).mem = s.mem := rfl
@[simp] theorem countFree_ports : (s.countFree).ports = ⟨s.ports.screen, s.ports.keys, s.ports.polls, s.ports.randoms, s.ports.freeCount + 1, s.ports.trace⟩ := rfl
@[simp] theorem countFree_readV (z : Reg) : (s.countFree).readV z = s.readV z := rfl
@[simp] theorem countFree_readSlot (z : BitVec 4) : (s.countFree).readSlot z = s.readSlot z := rfl
@[simp] theorem countFree_byteAt (z : Nat) : (s.countFree).byteAt z = s.byteAt z := rfl

/-! ### setST -/

@[simp] theorem setST_v (b : Byte) : (s.setST b).v = s.v := rfl
@[simp] theorem setST_i (b : Byte) : (s.setST b).i = s.i := rfl
@[simp] theorem setST_dt (b : Byte) : (s.setST b).dt = s.dt := rfl
@[simp] theorem setST_st (b : Byte) : (s.setST b).st = b := rfl
@[simp] theorem setST_pc (b : Byte) : (s.setST b).pc = s.pc := rfl
@[simp] theorem setST_sp (b : Byte) : (s.setST b).sp = s.sp := rfl
@[simp] theorem setST_stack (b : Byte) : (s.setST b).stack = s.stack := rfl
@[simp] theorem setST_tickcnt (b : Byte) : (s.setST b).tickcnt = s.tickcnt := rfl
@[simp] theorem setST_run (b : Byte) : (s.setST b).run = s.run := rfl
@[simp] theorem setST_fault (b : Byte) : (s.setST b).fault = s.fault := rfl
@[simp] theorem setST_faultInfo (b : Byte) : (s.setST b).faultInfo = s.faultInfo := rfl
@[simp] theorem setST_unrecognised (b : Byte) : (s.setST b).unrecognised = s.unrecognised := rfl
@[simp] theorem setST_mem (b : Byte) : (s.setST b).mem = s.mem := rfl
@[simp] theorem setST_ports (b : Byte) : (s.setST b).ports = ⟨s.ports.screen, s.ports.keys, s.ports.polls, s.ports.randoms, s.ports.freeCount, s.ports.trace ++ audioEdge s.st b⟩ := rfl
@[simp] theorem setST_readV (b : Byte) (z : Reg) : (s.setST b).readV z = s.readV z := rfl
@[simp] theorem setST_readSlot (b : Byte) (z : BitVec 4) : (s.setST b).readSlot z = s.readSlot z := rfl
@[simp] theorem setST_byteAt (b : Byte) (z : Nat) : (s.setST b).byteAt z = s.byteAt z := rfl

/-! ### Read after write -/

/-- A register written reads as what was written. -/
@[simp] theorem readV_writeV_same (x : Reg) (b : Byte) : (s.writeV x b).readV x = b := by
  simp [State.readV, State.writeV]

/-- A register write leaves every other register alone. -/
theorem readV_writeV_other {x z : Reg} (b : Byte) (h : z ≠ x) : (s.writeV x b).readV z = s.readV z := by
  have : x.toNat ≠ z.toNat := fun e => h (BitVec.eq_of_toNat_eq e.symm)
  simp [State.readV, State.writeV, this]

/-- A register read after a register write, both cases at once. -/
theorem readV_writeV (x z : Reg) (b : Byte) : (s.writeV x b).readV z = if z = x then b else s.readV z := by
  by_cases h : z = x
  · subst h; simp
  · simp [h, readV_writeV_other s b h]

/-- A slot written reads as what was written. -/
@[simp] theorem readSlot_writeSlot_same (p : BitVec 4) (w : Word) : (s.writeSlot p w).readSlot p = w := by
  simp [State.readSlot, State.writeSlot]

/-- A slot write leaves every other slot alone. -/
theorem readSlot_writeSlot_other {p q : BitVec 4} (w : Word) (h : q ≠ p) :
    (s.writeSlot p w).readSlot q = s.readSlot q := by
  have : p.toNat ≠ q.toNat := fun e => h (BitVec.eq_of_toNat_eq e.symm)
  simp [State.readSlot, State.writeSlot, this]

end Sys2Proof.Machine.Laws
end

