-- ==== Sys2Proof/Laws/Memory.lean ====
section
/-! SUPPORT. Memory: every operation keeps the canonical form, a read after a write gives the value written, a write
leaves every other address alone; and what the accesses built from them can do. -/

namespace Sys2Proof.Machine.Laws

/-- Canonical from a bound is canonical from any lower bound. -/
theorem wfFrom_mono {lo hi : Nat} {m : Memory} (h : m.wfFrom hi = true) (hl : lo ≤ hi) : m.wfFrom lo = true := by
  cases m with
  | nil => rfl
  | cons c m =>
    simp only [Memory.wfFrom, Bool.and_eq_true, decide_eq_true_eq] at h ⊢
    exact ⟨⟨⟨hl.trans h.1.1.1, h.1.1.2⟩, h.1.2⟩, h.2⟩

/-- Below the bound nothing is listed. -/
theorem read_below {m : Memory} {lo a : Nat} (h : m.wfFrom lo = true) (ha : a < lo) : m.read a = unlisted a := by
  induction m generalizing lo with
  | nil => rfl
  | cons c m ih =>
    simp only [Memory.wfFrom, Bool.and_eq_true, decide_eq_true_eq] at h
    have hk : a ≠ c.1 := by omega
    simp only [Memory.read, hk, if_false]
    exact ih h.2 (by omega)

theorem write_wfFrom {m : Memory} {lo a : Nat} {b : Byte} (h : m.wfFrom lo = true) (hl : lo ≤ a) (ha : a < memSize) :
    (m.write a b).wfFrom lo = true := by
  induction m generalizing lo with
  | nil =>
    simp only [Memory.write]
    split <;> simp_all [Memory.wfFrom]
  | cons c m ih =>
    simp only [Memory.wfFrom, Bool.and_eq_true, decide_eq_true_eq] at h
    obtain ⟨⟨⟨h1, h2⟩, h3⟩, h4⟩ := h
    simp only [Memory.write]
    split
    · split
      · simp [Memory.wfFrom, h1, h2, h4]; simpa using h3
      · rename_i hac hb
        have : a + 1 ≤ c.1 := by omega
        simp [Memory.wfFrom, hl, ha, hb, this, h2, h4]; simpa using h3
    · split
      · rename_i hac
        subst hac
        split
        · exact wfFrom_mono h4 (by omega)
        · rename_i hb; simp [Memory.wfFrom, hl, ha, hb, h4]
      · have := ih h4 (by omega)
        simp [Memory.wfFrom, h1, h2, this]; simpa using h3

/-- A write inside Memory keeps the canonical form. -/
theorem write_wf {m : Memory} {a : Nat} {b : Byte} (h : m.wf = true) (ha : a < memSize) : (m.write a b).wf = true :=
  write_wfFrom h (Nat.zero_le a) ha

/-- A read after a write to another address. -/
theorem read_write_other (m : Memory) {a z : Nat} (b : Byte) (h : z ≠ a) : (m.write a b).read z = m.read z := by
  induction m with
  | nil => simp only [Memory.write]; split <;> simp [Memory.read, h]
  | cons c m ih =>
    simp only [Memory.write]
    split
    · split <;> simp [Memory.read, h]
    · split
      · rename_i hac
        subst hac
        split <;> simp [Memory.read, h]
      · simp only [Memory.read, ih]

theorem read_write_sameFrom {m : Memory} {lo a : Nat} {b : Byte} (h : m.wfFrom lo = true) :
    (m.write a b).read a = b := by
  induction m generalizing lo with
  | nil => simp only [Memory.write]; split <;> simp_all [Memory.read]
  | cons c m ih =>
    simp only [Memory.wfFrom, Bool.and_eq_true, decide_eq_true_eq] at h
    simp only [Memory.write]
    split
    · split
      · rename_i hac hb
        have hk : a ≠ c.1 := by omega
        simp only [Memory.read, hk, if_false]
        rw [read_below h.2 (by omega), hb]
      · simp [Memory.read]
    · split
      · rename_i hac
        subst hac
        split
        · rename_i hb
          rw [read_below h.2 (by omega), hb]
        · simp [Memory.read]
      · rename_i hac
        have hk : a ≠ c.1 := by omega
        simp only [Memory.read, hk, if_false]
        exact ih h.2

/-- A read after a write to the same address. -/
theorem read_write_same {m : Memory} {a : Nat} {b : Byte} (h : m.wf = true) : (m.write a b).read a = b :=
  read_write_sameFrom h

/-- Copying bytes inside Memory keeps the canonical form. -/
theorem copyIn_wf {m : Memory} {a : Nat} {bs : List Byte} (h : m.wf = true) (hb : a + bs.length ≤ memSize) :
    (m.copyIn a bs).wf = true := by
  induction bs generalizing m a with
  | nil => exact h
  | cons b bs ih =>
    simp only [List.length_cons] at hb
    exact ih (write_wf h (by omega)) (by omega)

/-- Copying leaves every address outside the copied bytes alone. -/
theorem read_copyIn_outside (m : Memory) {a z : Nat} {bs : List Byte} (h : z < a ∨ a + bs.length ≤ z) :
    (m.copyIn a bs).read z = m.read z := by
  induction bs generalizing m a with
  | nil => rfl
  | cons b bs ih =>
    simp only [List.length_cons] at h
    simp only [Memory.copyIn]
    rw [ih _ (by omega), read_write_other _ _ (by omega)]

/-- Copying puts byte `k` at address `a + k`. -/
theorem read_copyIn {m : Memory} {a k : Nat} {bs : List Byte} (h : m.wf = true) (hb : a + bs.length ≤ memSize)
    (hk : k < bs.length) : (m.copyIn a bs).read (a + k) = bs[k] := by
  induction bs generalizing m a k with
  | nil => simp at hk
  | cons b bs ih =>
    simp only [List.length_cons] at hb hk
    simp only [Memory.copyIn]
    cases k with
    | zero => rw [read_copyIn_outside _ (by omega)]; exact read_write_same h
    | succ k =>
      have := ih (k := k) (write_wf (b := b) h (show a < memSize by omega)) (a := a + 1) (by omega) (by omega)
      rw [show a + (k + 1) = a + 1 + k by omega, this]; rfl

/-- The reset Memory is canonical. -/
theorem reset_mem_wf : State.reset.mem.wf = true := rfl

/-- `MemRead` in range. -/
theorem memRead_ok (s : State) {a : Nat} (h : a < memSize) : s.memRead a = .ok (s.byteAt a) := by
  simp [State.memRead, Nat.not_le.mpr h]

/-- `MemRead` out of range. -/
theorem memRead_error (s : State) {a : Nat} (h : memSize ≤ a) :
    s.memRead a = .error (s.raise .addressOutOfBounds .memRead a) := by simp [State.memRead, h]

/-- `MemWrite` in range. -/
theorem memWrite_ok (s : State) {a : Nat} (b : Byte) (h : a < memSize) :
    s.memWrite a b = .ok (s.setMem (s.mem.write a b)) := by simp [State.memWrite, Nat.not_le.mpr h]

/-- `MemWrite` out of range. -/
theorem memWrite_error (s : State) {a : Nat} (b : Byte) (h : memSize ≤ a) :
    s.memWrite a b = .error (s.raise .addressOutOfBounds .memWrite a) := by simp [State.memWrite, h]

/-- Storing bytes that all lie in Memory is copying them in. -/
theorem storeBytes_ok (s : State) {a : Nat} {bs : List Byte} (h : bs = [] ∨ a + bs.length ≤ memSize) :
    s.storeBytes a bs = .ok (s.setMem (s.mem.copyIn a bs)) := by
  induction bs generalizing s a with
  | nil => rfl
  | cons b bs ih =>
    simp only [List.length_cons, reduceCtorEq, false_or] at h
    simp only [State.storeBytes, memWrite_ok s b (show a < memSize by omega), Memory.copyIn]
    rw [ih _ (by cases bs <;> simp_all; omega)]
    rfl

/-- Storing bytes that do not all lie in Memory stores those that do and faults at the first that does not. -/
theorem storeBytes_error (s : State) {a : Nat} {bs : List Byte} (hne : bs ≠ []) (h : memSize < a + bs.length) :
    s.storeBytes a bs = .error ((s.setMem (s.mem.copyIn a (bs.take (memSize - a)))).raise .addressOutOfBounds .memWrite
      (max a memSize)) := by
  induction bs generalizing s a with
  | nil => exact absurd rfl hne
  | cons b bs ih =>
    simp only [List.length_cons] at h
    by_cases ha : memSize ≤ a
    · have h0 : memSize - a = 0 := by omega
      have hm : max a memSize = a := by omega
      simp only [State.storeBytes, memWrite_error s b ha, h0, hm, List.take_zero, Memory.copyIn]
      rfl
    · have h1 : memSize - a = (memSize - (a + 1)) + 1 := by omega
      have hb : bs ≠ [] := by rintro rfl; simp at h; omega
      have hm : max a memSize = max (a + 1) memSize := by omega
      simp only [State.storeBytes, memWrite_ok s b (show a < memSize by omega)]
      rw [ih _ hb (by omega), h1, hm]
      rfl

/-- Storing answers one of the two. -/
theorem storeBytes_cases (a : Nat) (bs : List Byte) :
    (bs = [] ∨ a + bs.length ≤ memSize) ∨ (bs ≠ [] ∧ memSize < a + bs.length) := by
  by_cases h : bs = []
  · exact .inl (.inl h)
  · by_cases h2 : a + bs.length ≤ memSize
    · exact .inl (.inr h2)
    · exact .inr ⟨h, by omega⟩

/-- Loading registers writes registers only; register `k` gets the byte at `a + k`. -/
theorem loadRegs_ok (s : State) {a n : Nat} (hn : n ≤ 16) (h : n = 0 ∨ a + n ≤ memSize) :
    ∃ t, s.loadRegs a n = .ok t ∧ t = { s with v := t.v } ∧
      ∀ r : Reg, t.readV r = if r.toNat < n then s.byteAt (a + r.toNat) else s.readV r := by
  induction n with
  | zero => exact ⟨s, rfl, rfl, by simp⟩
  | succ n ih =>
    obtain ⟨t, ht, hf, hr⟩ := ih (by omega) (by omega)
    have hb : t.byteAt = s.byteAt := by rw [hf]; rfl
    refine ⟨t.writeV (BitVec.ofNat 4 n) (t.byteAt (a + n)), ?_, ?_, ?_⟩
    · simp only [State.loadRegs, ht, memRead_ok t (show a + n < memSize by omega)]
    · rw [hf]; rfl
    · intro r
      rw [readV_writeV, hr, hb]
      have hr15 := r.isLt
      by_cases he : r = BitVec.ofNat 4 n
      · have hrn : r.toNat = n := by rw [he, BitVec.toNat_ofNat]; omega
        rw [if_pos he, if_pos (by omega), hrn]
      · have : r.toNat ≠ n := fun e => he (BitVec.eq_of_toNat_eq (by rw [BitVec.toNat_ofNat, e]; omega))
        simp only [he, if_false]
        by_cases hlt : r.toNat < n
        · simp [hlt, Nat.lt_succ_of_lt hlt]
        · have : ¬ r.toNat < n + 1 := by omega
          simp [hlt, this]

/-- Loading past the end of Memory loads what lies in it and faults at the first address that does not. -/
theorem loadRegs_error (s : State) {a n : Nat} (hn : n ≤ 16) (h0 : n ≠ 0) (h : memSize < a + n) :
    ∃ t : State, t = { s with v := t.v } ∧
      s.loadRegs a n = .error (t.raise .addressOutOfBounds .memRead (max a memSize)) ∧
      ∀ r : Reg, t.readV r = if a + r.toNat < memSize ∧ r.toNat < n then s.byteAt (a + r.toNat) else s.readV r := by
  induction n with
  | zero => exact absurd rfl h0
  | succ n ih =>
    by_cases hc : n = 0 ∨ a + n ≤ memSize
    · obtain ⟨t, ht, hf, hr⟩ := loadRegs_ok s (a := a) (n := n) (by omega) hc
      have hm : max a memSize = a + n := by rcases hc with rfl | hc <;> omega
      refine ⟨t, hf, ?_, ?_⟩
      · simp only [State.loadRegs, ht, memRead_error t (show memSize ≤ a + n by omega), hm]
      · intro r
        rw [hr]
        congr 1
        rcases hc with rfl | hc <;> simp only [eq_iff_iff] <;> omega
    · obtain ⟨t, hf, ht, hr⟩ := ih (by omega) (by omega) (by omega)
      refine ⟨t, hf, ?_, ?_⟩
      · simp only [State.loadRegs, ht]
      · intro r
        rw [hr]
        congr 1
        simp only [eq_iff_iff]
        omega

end Sys2Proof.Machine.Laws
end

