-- ==== Sys2Proof/Laws/PerInstr.lean ====
section
/-! SUPPORT. What holds of every instruction as syntax, one lemma per constructor. -/

namespace Sys2Proof.Laws.TwoBytes

/-- Every instruction is two bytes long (30_encoding.md R70), high byte first (20_memory.md R46), and carries only
operands in range (R72). -/
def Statement (i : Instr) : Prop :=
  (encode i).length = 2 ∧ encode i = [(encodeWord i).extractLsb' 8 8, (encodeWord i).extractLsb' 0 8] ∧
    wellFormed i = true

/-- A register number passes its check. -/
@[simp] theorem reg_toNat (x : Reg) : reg? x.toNat = some x := by simp [reg?, x.isLt]

/-- An immediate passes its check. -/
@[simp] theorem byte_toNat (b : Byte) : byte? b.toNat = some b := by simp [byte?, b.isLt]

/-- An address passes its check. -/
@[simp] theorem addr_toNat (a : Addr) : addr? a.toNat = some a := by simp [addr?, a.isLt]

/-- A row count passes its check. -/
@[simp] theorem rows_toNat (n : Nibble) : rows? n.toNat = some n := by simp [rows?, n.isLt]

theorem cls : Statement (.cls) := ⟨rfl, rfl, by simp [wellFormed]⟩
theorem ret : Statement (.ret) := ⟨rfl, rfl, by simp [wellFormed]⟩
theorem jpAddr (a : Addr) : Statement (.jpAddr a) := ⟨rfl, rfl, by simp [wellFormed]⟩
theorem callAddr (a : Addr) : Statement (.callAddr a) := ⟨rfl, rfl, by simp [wellFormed]⟩
theorem seVxByte (x : Reg) (b : Byte) : Statement (.seVxByte x b) := ⟨rfl, rfl, by simp [wellFormed]⟩
theorem sneVxByte (x : Reg) (b : Byte) : Statement (.sneVxByte x b) := ⟨rfl, rfl, by simp [wellFormed]⟩
theorem seVxVy (x : Reg) (y : Reg) : Statement (.seVxVy x y) := ⟨rfl, rfl, by simp [wellFormed]⟩
theorem ldVxByte (x : Reg) (b : Byte) : Statement (.ldVxByte x b) := ⟨rfl, rfl, by simp [wellFormed]⟩
theorem addVxByte (x : Reg) (b : Byte) : Statement (.addVxByte x b) := ⟨rfl, rfl, by simp [wellFormed]⟩
theorem ldVxVy (x : Reg) (y : Reg) : Statement (.ldVxVy x y) := ⟨rfl, rfl, by simp [wellFormed]⟩
theorem orVxVy (x : Reg) (y : Reg) : Statement (.orVxVy x y) := ⟨rfl, rfl, by simp [wellFormed]⟩
theorem andVxVy (x : Reg) (y : Reg) : Statement (.andVxVy x y) := ⟨rfl, rfl, by simp [wellFormed]⟩
theorem xorVxVy (x : Reg) (y : Reg) : Statement (.xorVxVy x y) := ⟨rfl, rfl, by simp [wellFormed]⟩
theorem addVxVy (x : Reg) (y : Reg) : Statement (.addVxVy x y) := ⟨rfl, rfl, by simp [wellFormed]⟩
theorem subVxVy (x : Reg) (y : Reg) : Statement (.subVxVy x y) := ⟨rfl, rfl, by simp [wellFormed]⟩
theorem shrVx (x : Reg) (y : Reg) : Statement (.shrVx x y) := ⟨rfl, rfl, by simp [wellFormed]⟩
theorem subnVxVy (x : Reg) (y : Reg) : Statement (.subnVxVy x y) := ⟨rfl, rfl, by simp [wellFormed]⟩
theorem shlVx (x : Reg) (y : Reg) : Statement (.shlVx x y) := ⟨rfl, rfl, by simp [wellFormed]⟩
theorem sneVxVy (x : Reg) (y : Reg) : Statement (.sneVxVy x y) := ⟨rfl, rfl, by simp [wellFormed]⟩
theorem ldIAddr (a : Addr) : Statement (.ldIAddr a) := ⟨rfl, rfl, by simp [wellFormed]⟩
theorem jpV0Addr (a : Addr) : Statement (.jpV0Addr a) := ⟨rfl, rfl, by simp [wellFormed]⟩
theorem rndVxByte (x : Reg) (b : Byte) : Statement (.rndVxByte x b) := ⟨rfl, rfl, by simp [wellFormed]⟩
theorem drwVxVyN (x : Reg) (y : Reg) (n : Nibble) : Statement (.drwVxVyN x y n) := ⟨rfl, rfl, by simp [wellFormed]⟩
theorem skpVx (x : Reg) : Statement (.skpVx x) := ⟨rfl, rfl, by simp [wellFormed]⟩
theorem sknpVx (x : Reg) : Statement (.sknpVx x) := ⟨rfl, rfl, by simp [wellFormed]⟩
theorem ldVxDt (x : Reg) : Statement (.ldVxDt x) := ⟨rfl, rfl, by simp [wellFormed]⟩
theorem ldVxK (x : Reg) : Statement (.ldVxK x) := ⟨rfl, rfl, by simp [wellFormed]⟩
theorem ldDtVx (x : Reg) : Statement (.ldDtVx x) := ⟨rfl, rfl, by simp [wellFormed]⟩
theorem ldStVx (x : Reg) : Statement (.ldStVx x) := ⟨rfl, rfl, by simp [wellFormed]⟩
theorem addIVx (x : Reg) : Statement (.addIVx x) := ⟨rfl, rfl, by simp [wellFormed]⟩
theorem ldFVx (x : Reg) : Statement (.ldFVx x) := ⟨rfl, rfl, by simp [wellFormed]⟩
theorem ldBVx (x : Reg) : Statement (.ldBVx x) := ⟨rfl, rfl, by simp [wellFormed]⟩
theorem ldMemVx (x : Reg) : Statement (.ldMemVx x) := ⟨rfl, rfl, by simp [wellFormed]⟩
theorem ldVxMem (x : Reg) : Statement (.ldVxMem x) := ⟨rfl, rfl, by simp [wellFormed]⟩

end Sys2Proof.Laws.TwoBytes
end

