-- ==== Sys2Proof/Laws/Ports.lean ====
section
/-! SUPPORT. What a port call, a stack operation, a sprite and a tick can do, each said once. -/

namespace Sys2Proof.Machine.Laws

/-! ### Port calls -/

/-- A random byte is one call, answered by the byte delivered; only the port side changes. -/
theorem randomByte_spec (s : State) : ∃ r q, s.randomByte = (r, s.setPorts q) ∧
    q.trace = s.ports.trace ++ [.randomByte r] ∧ q.screen = s.ports.screen ∧ q.keys = s.ports.keys ∧
    q.polls = s.ports.polls ∧ q.randoms = s.ports.randoms.tail ∧
    (∀ b rest, s.ports.randoms = b :: rest → r = b) := by
  unfold State.randomByte
  split
  · rename_i b rest h
    exact ⟨b, _, rfl, rfl, rfl, rfl, rfl, by simp [h], fun _ _ e => by rw [h] at e; injection e⟩
  · rename_i h
    exact ⟨_, _, rfl, rfl, rfl, rfl, rfl, by simp [h], fun _ _ e => by rw [h] at e; cases e⟩

/-- A key test is one call with the key number asked; only the port side changes, the host's keys do not. -/
theorem isKeyDown_spec (s : State) (k : Byte) : ∃ d q, s.isKeyDown k = (d, s.setPorts q) ∧
    q.trace = s.ports.trace ++ [.isKeyDown k d] ∧ q.screen = s.ports.screen ∧ q.keys = s.ports.keys ∧
    q.polls = s.ports.polls ∧ q.randoms = s.ports.randoms ∧
    (∀ held, s.ports.keys = some held → k.toNat ≤ 15 → d = held.getLsbD k.toNat) := by
  unfold State.isKeyDown
  split
  · rename_i d h
    refine ⟨d, _, rfl, rfl, rfl, rfl, rfl, rfl, fun held hk hl => ?_⟩
    simp only [settledKey, hk, hl, if_true] at h
    exact (Option.some.inj h).symm
  · rename_i h
    refine ⟨_, _, rfl, rfl, rfl, rfl, rfl, rfl, fun held hk hl => ?_⟩
    simp [settledKey, hk, hl] at h

/-- A poll is one call; only the port side changes. -/
theorem pollKey_spec (s : State) : ∃ a q, s.pollKey = (a, s.setPorts q) ∧
    q.trace = s.ports.trace ++ [.pollKey a] ∧ q.screen = s.ports.screen ∧ q.keys = s.ports.keys ∧
    q.polls = s.ports.polls.tail ∧ q.randoms = s.ports.randoms ∧
    (∀ b rest, s.ports.polls = b :: rest → a = b) := by
  unfold State.pollKey
  split
  · rename_i b rest h
    exact ⟨b, _, rfl, rfl, rfl, rfl, by simp [h], rfl, fun _ _ e => by rw [h] at e; injection e⟩
  · rename_i h
    exact ⟨_, _, rfl, rfl, rfl, rfl, by simp [h], rfl, fun _ _ e => by rw [h] at e; cases e⟩

/-- A row byte of 0 flips no pixel and meets no lit one. -/
theorem drawBits_zero (f : Screen) (x y n : Nat) : f.drawBits x y 0 n = (false, f) := by
  induction n with
  | zero => rfl
  | succ n ih => simpa [Screen.drawBits] using ih

/-- A row drawn is one call; only the port side changes, no answer of another port, and no Display is attached; a row
byte of 0 reports no collision (44_io.md R162). -/
theorem drawByte_spec (s : State) (x : Byte) (y : BitVec 9) (b : Byte) : ∃ c q, s.drawByte x y b = (c, s.setPorts q) ∧
    q.trace = s.ports.trace ++ [.drawByte x y b c] ∧ q.keys = s.ports.keys ∧
    q.polls = s.ports.polls ∧ q.randoms = s.ports.randoms ∧ (s.ports.screen = none → q.screen = none) ∧
    (b = 0 → c = false) := by
  unfold State.drawByte
  split
  · rename_i f h
    refine ⟨_, _, rfl, rfl, rfl, rfl, rfl, fun e => (by rw [h] at e; cases e), ?_⟩
    rintro rfl
    exact congrArg Prod.fst (drawBits_zero f _ _ 8)
  · refine ⟨_, _, rfl, rfl, rfl, rfl, rfl, id, ?_⟩
    rintro rfl
    rfl

/-! ### Stack -/

/-- A push onto a stack with room. -/
theorem push_ok (s : State) (w : Word) (h : s.sp.toNat ≠ stackUsable) :
    s.push w = .ok ((s.writeSlot s.sp w).setSp (s.sp + 1)) := by simp [State.push, h]

/-- A push onto a full stack. -/
theorem push_error (s : State) (w : Word) (h : s.sp.toNat = stackUsable) :
    s.push w = .error (s.raise .addressOutOfBounds .stackPush s.sp.toNat) := by simp [State.push, h]

/-- A pop from a stack that holds something. -/
theorem pop_ok (s : State) (h : s.sp.toNat ≠ 0) :
    s.pop = .ok (s.readSlot (s.sp - 1), s.setSp (s.sp - 1)) := by simp [State.pop, h]

/-- A pop from an empty stack. -/
theorem pop_error (s : State) (h : s.sp.toNat = 0) :
    s.pop = .error (s.raise .addressOutOfBounds .stackPop s.sp.toNat) := by simp [State.pop, h]

/-! ### Sprites -/

/-- The rows of a sprite that lies in Memory: one call a row, in order; only the port side changes, and no answer of
another port; a row byte of 0 reports no collision. -/
theorem drawRows_ok (s : State) {a n : Nat} (cx cy : Byte) (h : n = 0 ∨ a + n ≤ memSize) :
    ∃ cs q, s.drawRows a cx cy n = .ok (cs.any id, s.setPorts q) ∧ cs.length = n ∧
      q.trace = s.ports.trace ++ rowCalls s a cx cy cs ∧ q.keys = s.ports.keys ∧ q.polls = s.ports.polls ∧
      q.randoms = s.ports.randoms ∧ (s.ports.screen = none → q.screen = none) ∧
      ∀ k (h : k < cs.length), s.byteAt (a + k) = 0 → cs[k] = false := by
  induction n with
  | zero => exact ⟨[], s.ports, rfl, rfl, by simp [rowCalls], rfl, rfl, rfl, id, fun k h => absurd h (Nat.not_lt_zero k)⟩
  | succ n ih =>
    obtain ⟨cs, q, he, hl, ht, hk, hp, hr, hs, hz⟩ := ih (by omega)
    obtain ⟨c, q2, hd, ht2, hk2, hp2, hr2, hs2, hz2⟩ :=
      drawByte_spec (s.setPorts q) cx (rowCoord cy n) (s.byteAt (a + n))
    refine ⟨cs ++ [c], q2, ?_, by simp [hl], ?_, hk2.trans hk, hp2.trans hp, hr2.trans hr, fun e => hs2 (hs e), ?_⟩
    · simp only [State.drawRows, he, memRead_ok _ (show a + n < memSize by omega), setPorts_byteAt, hd]
      simp [State.setPorts]
    · rw [ht2]
      simp [ht, rowCalls, hl, List.zipIdx_append]
    · intro k hlt h0
      rw [List.getElem_append]
      split
      · exact hz k _ h0
      · have hkn : k = n := by simp only [List.length_append, List.length_singleton] at hlt; omega
        subst hkn
        simp [hz2 h0]

/-- The rows of a sprite that runs past Memory: those that lie in it are drawn, and the first that does not faults. -/
theorem drawRows_error (s : State) {a n : Nat} (cx cy : Byte) (h0 : n ≠ 0) (h : memSize < a + n) :
    ∃ cs q, s.drawRows a cx cy n =
        .error ((s.setPorts q).raise .addressOutOfBounds .memRead (max a memSize)) ∧ cs.length = memSize - a ∧
      q.trace = s.ports.trace ++ rowCalls s a cx cy cs ∧ q.keys = s.ports.keys ∧ q.polls = s.ports.polls ∧
      q.randoms = s.ports.randoms ∧ (s.ports.screen = none → q.screen = none) ∧
      ∀ k (h : k < cs.length), s.byteAt (a + k) = 0 → cs[k] = false := by
  induction n with
  | zero => exact absurd rfl h0
  | succ n ih =>
    by_cases hc : n = 0 ∨ a + n ≤ memSize
    · obtain ⟨cs, q, he, hl, ht, rest⟩ := drawRows_ok s (a := a) (n := n) cx cy hc
      have hm : max a memSize = a + n := by rcases hc with rfl | hc <;> omega
      refine ⟨cs, q, ?_, by rcases hc with rfl | hc <;> omega, ht, rest⟩
      simp only [State.drawRows, he, memRead_error _ (show memSize ≤ a + n by omega), hm]
    · obtain ⟨cs, q, he, rest⟩ := ih (by omega) (by omega)
      exact ⟨cs, q, by simp only [State.drawRows, he], rest⟩

/-! ### Audio and the tick -/

/-- The tone after a longer trace. -/
theorem toneOf_append (l m : List PortCall) : toneOf (l ++ m) = m.foldl toneAfter (toneOf l) := by
  simp [toneOf]

/-- An audio edge takes the tone of the old ST to the tone of the new one. -/
theorem audioEdge_tone (old new : Byte) :
    (audioEdge old new).foldl toneAfter (some (old != 0)) = some (new != 0) := by
  have hb : ∀ z : Byte, (z != 0#8) = !decide (z = 0#8) := fun z => by
    by_cases h : z = 0#8 <;> simp [h]
  unfold audioEdge
  by_cases h1 : old = 0#8 <;> by_cases h2 : new = 0#8 <;> simp [hb, h1, h2, toneAfter]

/-- `SetST` keeps the tone in step with ST. -/
theorem setST_tone (s : State) (b : Byte) (h : toneOf s.ports.trace = some (s.st != 0)) :
    toneOf (s.setST b).ports.trace = some ((s.setST b).st != 0) := by
  simp only [setST_ports, setST_st, toneOf_append, h, audioEdge_tone]

/-- What a tick can do to a state: only DT, ST with its edge, and the divider's counter change. -/
theorem tick_spec (s : State) :
    (s.tickcnt.toNat + 1 ≠ timerDivider ∧ s.tick = s.setTickcnt (s.tickcnt + 1)) ∨
    (s.tickcnt.toNat + 1 = timerDivider ∧ ∃ d e,
      s.tick = ((s.setTickcnt 0).setDt d).setST e ∧
      d = (if s.dt = 0 then 0 else s.dt - 1) ∧ e = (if s.st = 0 then 0 else s.st - 1)) := by
  by_cases h : s.tickcnt.toNat + 1 = timerDivider
  · refine .inr ⟨h, _, _, ?_, rfl, rfl⟩
    rw [State.tick, if_pos h, State.decrementTimers]
    by_cases hd : s.dt = 0#8 <;> by_cases hs : s.st = 0#8 <;>
      ext1 <;> simp [hd, hs, audioEdge]
  · exact .inl ⟨h, by rw [State.tick, if_neg h]⟩

end Sys2Proof.Machine.Laws
end

