-- ==== Sys2Proof/Laws/Step.lean ====
section
/-! SUPPORT. What a whole operation, a tick and a run can do: the cases of each shared operation with both its ends, the
frame of a tick, and how a run unfolds. -/

namespace Sys2Proof.Machine.Laws

/-! ### Runs -/

/-- No steps. -/
theorem run_zero (s : State) : Host.Core.run Sys2Proof.core 0 s = .next s := rfl

/-- One step and the rest of the run. -/
theorem run_succ {s t : State} (n : Nat) (h : step s = .next t) :
    Host.Core.run Sys2Proof.core (n + 1) s = Host.Core.run Sys2Proof.core n t := by
  have h' : Sys2Proof.core.step s = .next t := h
  rw [Host.Core.run.eq_2 Sys2Proof.core s n, h']

/-! ### The cycle -/

/-- The program window in numbers (20_memory.md R45). -/
theorem inWindow_iff (s : State) : s.inWindow = true ↔ 0x200 ≤ s.pc.toNat ∧ s.pc.toNat ≤ 0xFFE := by
  simp only [State.inWindow, Bool.and_eq_true, decide_eq_true_eq]
  exact Iff.rfl

/-- A halted machine does not step (10_state.md R26). -/
theorem step_halted {s : State} (h : s.run = .halted) : step s = .next s := by simp [step, cycle, h]

/-- A PC outside the window is a fault. -/
theorem step_outside {s : State} (h : s.run ≠ .halted) (hw : s.inWindow = false) :
    step s = .next (s.beginCycle.raise .programCounterOutOfProgramRegion .none s.pc.toNat) := by
  simp [step, cycle, h, hw]

/-- A recognised word in the window: its execute phase, and then the end of the cycle. -/
theorem step_instr {s : State} {i : Instr} (h : s.run ≠ .halted) (hw : s.inWindow = true)
    (hd : decodeWord s.fetchWord = .instr i) : step s = closeCycle (exec i s.beginCycle) := by
  simp [step, cycle, h, hw, hd]

/-- An unrecognised word in the window: the no-operation, and then the end of the cycle. -/
theorem step_unrecognised {s : State} (h : s.run ≠ .halted) (hw : s.inWindow = true)
    (hd : decodeWord s.fetchWord = .unrecognised) :
    step s = .next s.beginCycle.unrecognisedWord.endCycle := by
  simp [step, cycle, h, hw, hd]

/-- Everything a step can do. -/
theorem step_cases (s : State) :
    (s.run = .halted ∧ step s = .next s) ∨
    (s.run ≠ .halted ∧ s.inWindow = false ∧
      step s = .next (s.beginCycle.raise .programCounterOutOfProgramRegion .none s.pc.toNat)) ∨
    (s.run ≠ .halted ∧ s.inWindow = true ∧ ∃ i, decodeWord s.fetchWord = .instr i ∧
      step s = closeCycle (exec i s.beginCycle)) ∨
    (s.run ≠ .halted ∧ s.inWindow = true ∧ decodeWord s.fetchWord = .unrecognised ∧
      step s = .next s.beginCycle.unrecognisedWord.endCycle) := by
  by_cases h : s.run = .halted
  · exact .inl ⟨h, step_halted h⟩
  · cases hw : s.inWindow
    · exact .inr (.inl ⟨h, rfl, step_outside h hw⟩)
    · cases hd : decodeWord s.fetchWord with
      | instr i => exact .inr (.inr (.inl ⟨h, rfl, i, rfl, step_instr h hw hd⟩))
      | unrecognised => exact .inr (.inr (.inr ⟨h, rfl, rfl, step_unrecognised h hw hd⟩))

/-! ### The frame of a tick -/

@[simp] theorem tick_v (s : State) : s.tick.v = s.v := by
  rcases tick_spec s with ⟨_, h⟩ | ⟨_, _, _, h, _⟩ <;> rw [h] <;> rfl
@[simp] theorem tick_i (s : State) : s.tick.i = s.i := by
  rcases tick_spec s with ⟨_, h⟩ | ⟨_, _, _, h, _⟩ <;> rw [h] <;> rfl
@[simp] theorem tick_pc (s : State) : s.tick.pc = s.pc := by
  rcases tick_spec s with ⟨_, h⟩ | ⟨_, _, _, h, _⟩ <;> rw [h] <;> rfl
@[simp] theorem tick_sp (s : State) : s.tick.sp = s.sp := by
  rcases tick_spec s with ⟨_, h⟩ | ⟨_, _, _, h, _⟩ <;> rw [h] <;> rfl
@[simp] theorem tick_stack (s : State) : s.tick.stack = s.stack := by
  rcases tick_spec s with ⟨_, h⟩ | ⟨_, _, _, h, _⟩ <;> rw [h] <;> rfl
@[simp] theorem tick_run (s : State) : s.tick.run = s.run := by
  rcases tick_spec s with ⟨_, h⟩ | ⟨_, _, _, h, _⟩ <;> rw [h] <;> rfl
@[simp] theorem tick_fault (s : State) : s.tick.fault = s.fault := by
  rcases tick_spec s with ⟨_, h⟩ | ⟨_, _, _, h, _⟩ <;> rw [h] <;> rfl
@[simp] theorem tick_faultInfo (s : State) : s.tick.faultInfo = s.faultInfo := by
  rcases tick_spec s with ⟨_, h⟩ | ⟨_, _, _, h, _⟩ <;> rw [h] <;> rfl
@[simp] theorem tick_unrecognised (s : State) : s.tick.unrecognised = s.unrecognised := by
  rcases tick_spec s with ⟨_, h⟩ | ⟨_, _, _, h, _⟩ <;> rw [h] <;> rfl
@[simp] theorem tick_mem (s : State) : s.tick.mem = s.mem := by
  rcases tick_spec s with ⟨_, h⟩ | ⟨_, _, _, h, _⟩ <;> rw [h] <;> rfl

/-- A tick keeps the tone in step with ST (60_exceptions.md R186). -/
theorem tick_tone (s : State) (h : toneOf s.ports.trace = some (s.st != 0)) :
    toneOf s.tick.ports.trace = some (s.tick.st != 0) := by
  rcases tick_spec s with ⟨_, e⟩ | ⟨_, d, b, e, _⟩ <;> rw [e]
  · exact h
  · exact setST_tone _ _ h

/-! ### Both ends of each shared operation -/

/-- A push: done, or refused by the full stack. -/
theorem push_cases (s : State) (w : Word) :
    (s.push w = .ok ((s.writeSlot s.sp w).setSp (s.sp + 1)) ∧ s.sp.toNat ≠ stackUsable) ∨
    (s.push w = .error (s.raise .addressOutOfBounds .stackPush s.sp.toNat) ∧ s.sp.toNat = stackUsable) := by
  by_cases h : s.sp.toNat = stackUsable
  · exact .inr ⟨push_error s w h, h⟩
  · exact .inl ⟨push_ok s w h, h⟩

/-- A pop: done, or refused by the empty stack. -/
theorem pop_cases (s : State) :
    (s.pop = .ok (s.readSlot (s.sp - 1), s.setSp (s.sp - 1)) ∧ s.sp.toNat ≠ 0) ∨
    (s.pop = .error (s.raise .addressOutOfBounds .stackPop s.sp.toNat) ∧ s.sp.toNat = 0) := by
  by_cases h : s.sp.toNat = 0
  · exact .inr ⟨pop_error s h, h⟩
  · exact .inl ⟨pop_ok s h, h⟩

/-- Storing bytes: all of them, or those below `MEM_SIZE` and a fault at the first that is not. -/
theorem storeBytes_both (s : State) (a : Nat) (bs : List Byte) :
    (s.storeBytes a bs = .ok (s.setMem (s.mem.copyIn a bs)) ∧ (bs = [] ∨ a + bs.length ≤ memSize)) ∨
    (s.storeBytes a bs = .error ((s.setMem (s.mem.copyIn a (bs.take (memSize - a)))).raise .addressOutOfBounds
      .memWrite (max a memSize)) ∧ memSize < a + bs.length) := by
  rcases storeBytes_cases a bs with h | h
  · exact .inl ⟨storeBytes_ok s h, h⟩
  · exact .inr ⟨storeBytes_error s h.1 h.2, h.2⟩

/-- Loading registers: all of them, or those whose byte lies in Memory and a fault at the first whose byte does not;
only registers are written, and none from `n` up. -/
theorem loadRegs_both (s : State) (a : Nat) {n : Nat} (hn : n ≤ 16) :
    (∃ t : State, s.loadRegs a n = .ok t ∧ t = { s with v := t.v } ∧ ∀ r : Reg, n ≤ r.toNat → t.readV r = s.readV r) ∨
    (∃ t : State, s.loadRegs a n = .error (t.raise .addressOutOfBounds .memRead (max a memSize)) ∧
      memSize < a + n ∧ t = { s with v := t.v } ∧ ∀ r : Reg, n ≤ r.toNat → t.readV r = s.readV r) := by
  rcases Classical.em (n = 0 ∨ a + n ≤ memSize) with h | h
  · obtain ⟨t, e, hf, hr⟩ := loadRegs_ok s hn h
    exact .inl ⟨t, e, hf, fun r hr' => by rw [hr, if_neg (by omega)]⟩
  · obtain ⟨t, hf, e, hr⟩ := loadRegs_error s (a := a) hn (by omega) (by omega)
    exact .inr ⟨t, e, by omega, hf, fun r hr' => by rw [hr, if_neg (by omega)]⟩

/-- Drawing rows: all of them, or those that lie in Memory and a fault at the first that does not; only the port side
changes, and no answer of another port. -/
theorem drawRows_both (s : State) (a n : Nat) (cx cy : Byte) :
    (∃ cs q, s.drawRows a cx cy n = .ok (cs.any id, s.setPorts q) ∧
      q.trace = s.ports.trace ++ rowCalls s a cx cy cs ∧ q.keys = s.ports.keys ∧ q.polls = s.ports.polls ∧
      q.randoms = s.ports.randoms) ∨
    (∃ cs q, s.drawRows a cx cy n =
        .error ((s.setPorts q).raise .addressOutOfBounds .memRead (max a memSize)) ∧ memSize < a + n ∧
      q.trace = s.ports.trace ++ rowCalls s a cx cy cs ∧ q.keys = s.ports.keys ∧ q.polls = s.ports.polls ∧
      q.randoms = s.ports.randoms) := by
  rcases Classical.em (n = 0 ∨ a + n ≤ memSize) with h | h
  · obtain ⟨cs, q, e, _, ht, hk, hp, hr, _⟩ := drawRows_ok s cx cy h
    exact .inl ⟨cs, q, e, ht, hk, hp, hr⟩
  · obtain ⟨cs, q, e, _, ht, hk, hp, hr, _⟩ := drawRows_error s (a := a) (n := n) cx cy (by omega) (by omega)
    exact .inr ⟨cs, q, e, by omega, ht, hk, hp, hr⟩

/-- A sprite's calls start and stop no tone. -/
theorem rowCalls_tone (s : State) (a : Nat) (cx cy : Byte) (cs : List Bool) (t : Option Bool) :
    (rowCalls s a cx cy cs).foldl toneAfter t = t := by
  unfold rowCalls
  generalize cs.zipIdx = l
  induction l generalizing t with
  | nil => rfl
  | cons p l ih =>
    simp only [List.map_cons, List.foldl_cons]
    have : ∀ c : PortCall, (∃ x y b d, c = .drawByte x y b d) → toneAfter t c = t := by
      rintro _ ⟨x, y, b, d, rfl⟩
      rcases t with _ | _ | _ <;> rfl
    rw [this _ ⟨_, _, _, _, rfl⟩, ih]

end Sys2Proof.Machine.Laws
end

