-- ==== Sys2Proof/Machine/Asm.lean ====
section
/-! DEFINITION. The assembly text of an instruction, in the spec's one syntax (30_encoding.md R81): the mnemonic in
capitals, a space, the operands separated by commas without spaces; numbers in decimal. No meaning depends on it. -/

namespace Sys2Proof.Machine

/-- V0 to V9, VA to VF. -/
def regText (x : Reg) : String :=
  "V" ++ (["0", "1", "2", "3", "4", "5", "6", "7", "8", "9", "A", "B", "C", "D", "E", "F"].getD x.toNat "")

/-- A number operand in decimal. -/
def numText (n : Nat) : String := toString n

/-- The text of an instruction (R76, column mnemonic, with its operands filled in). -/
def asmText : Instr → String
  | .cls => "CLS"
  | .ret => "RET"
  | .jpAddr a => "JP " ++ numText a.toNat
  | .callAddr a => "CALL " ++ numText a.toNat
  | .seVxByte x b => "SE " ++ regText x ++ "," ++ numText b.toNat
  | .sneVxByte x b => "SNE " ++ regText x ++ "," ++ numText b.toNat
  | .seVxVy x y => "SE " ++ regText x ++ "," ++ regText y
  | .ldVxByte x b => "LD " ++ regText x ++ "," ++ numText b.toNat
  | .addVxByte x b => "ADD " ++ regText x ++ "," ++ numText b.toNat
  | .ldVxVy x y => "LD " ++ regText x ++ "," ++ regText y
  | .orVxVy x y => "OR " ++ regText x ++ "," ++ regText y
  | .andVxVy x y => "AND " ++ regText x ++ "," ++ regText y
  | .xorVxVy x y => "XOR " ++ regText x ++ "," ++ regText y
  | .addVxVy x y => "ADD " ++ regText x ++ "," ++ regText y
  | .subVxVy x y => "SUB " ++ regText x ++ "," ++ regText y
  | .shrVx x _ => "SHR " ++ regText x
  | .subnVxVy x y => "SUBN " ++ regText x ++ "," ++ regText y
  | .shlVx x _ => "SHL " ++ regText x
  | .sneVxVy x y => "SNE " ++ regText x ++ "," ++ regText y
  | .ldIAddr a => "LD I," ++ numText a.toNat
  | .jpV0Addr a => "JP V0," ++ numText a.toNat
  | .rndVxByte x b => "RND " ++ regText x ++ "," ++ numText b.toNat
  | .drwVxVyN x y n => "DRW " ++ regText x ++ "," ++ regText y ++ "," ++ numText n.toNat
  | .skpVx x => "SKP " ++ regText x
  | .sknpVx x => "SKNP " ++ regText x
  | .ldVxDt x => "LD " ++ regText x ++ ",DT"
  | .ldVxK x => "LD " ++ regText x ++ ",K"
  | .ldDtVx x => "LD DT," ++ regText x
  | .ldStVx x => "LD ST," ++ regText x
  | .addIVx x => "ADD I," ++ regText x
  | .ldFVx x => "LD F," ++ regText x
  | .ldBVx x => "LD B," ++ regText x
  | .ldMemVx x => "LD [I]," ++ regText x
  | .ldVxMem x => "LD " ++ regText x ++ ",[I]"

end Sys2Proof.Machine
end

