-- ==== Sys2Proof/Tests/Slice0.lean ====
section
/-! SUPPORT. The model's own tests. Expected results are the spec's: its encodings (30_encoding.md R72 to R81), its test
vectors (95_test_vectors.md, named by their ids) and its worked examples. After them, one witness for the hypotheses of
every statement that has some. -/

namespace Sys2Proof.Machine.Tests

/-! ### Helpers -/

/-- The reset state with a word where the first cycle fetches. -/
def withWord (w : Nat) : State := State.reset.withFetchWord 16 w

/-- A state with some general registers set. -/
def State.regs (s : State) (l : List (Reg × Byte)) : State := l.foldl (fun t p => t.writeV p.1 p.2) s

/-- A state with some bytes of Memory set. -/
def State.bytes (s : State) (a : Nat) (bs : List Byte) : State := s.setMem (s.mem.copyIn a bs)

/-- The state one step later. -/
def after (s : State) : State :=
  match step s with
  | .next t => t
  | .fault _ => s
  | .refused _ => s

/-- The state after one execute phase. -/
def execOf (i : Instr) (s : State) : State :=
  match exec i s with
  | .next t => t
  | .fault _ => s
  | .refused _ => s

/-- What a fault left: run state, cause, kind, address, PC in the record, PC. -/
def faultOf (s : State) : Run × Cause × AccessKind × Nat × Nat × Nat :=
  (s.run, s.fault, s.faultInfo.kind, s.faultInfo.addr.toNat, s.faultInfo.pc.toNat, s.pc.toNat)

/-- The bytes of Memory from an address. -/
def bytesAt (s : State) (a n : Nat) : List Nat := (List.range n).map fun k => (s.byteAt (a + k)).toNat

/-! ### WellFormed (30_encoding.md R72): an operand out of range is refused -/

theorem test_reg_refused : reg? 16 = none ∧ reg? 15 = some 15 := by decide
theorem test_byte_refused : byte? 256 = none ∧ byte? 255 = some 255 := by decide
theorem test_addr_refused : addr? 4096 = none ∧ addr? 4095 = some 4095 := by decide
theorem test_rows_refused : rows? 16 = none ∧ rows? 15 = some 15 := by decide

/-! ### Decode: the words bit by bit from the patterns of 30_encoding.md R76 -/

theorem test_decode_fixed :
    decodeTableWord 16 0b0000000011100000 = some .cls ∧
    decodeTableWord 16 0b0000000011101110 = some .ret := by decide

theorem test_decode_flow :
    decodeTableWord 16 0b0001001000110100 = some (.jpAddr 0x234) ∧
    decodeTableWord 16 0b0010111111111110 = some (.callAddr 0xFFE) ∧
    decodeTableWord 16 0b0011101011111110 = some (.seVxByte 10 0xFE) ∧
    decodeTableWord 16 0b0100101011111110 = some (.sneVxByte 10 0xFE) ∧
    decodeTableWord 16 0b0101101010110000 = some (.seVxVy 10 11) ∧
    decodeTableWord 16 0b1001101010110000 = some (.sneVxVy 10 11) ∧
    decodeTableWord 16 0b1011001011111110 = some (.jpV0Addr 0x2FE) := by decide

theorem test_decode_loads :
    decodeTableWord 16 0b0110101001010101 = some (.ldVxByte 10 0x55) ∧
    decodeTableWord 16 0b0111111100000001 = some (.addVxByte 15 0x01) := by decide

theorem test_decode_alu :
    decodeTableWord 16 0b1000000100100000 = some (.ldVxVy 1 2) ∧
    decodeTableWord 16 0b1000000100100001 = some (.orVxVy 1 2) ∧
    decodeTableWord 16 0b1000000100100010 = some (.andVxVy 1 2) ∧
    decodeTableWord 16 0b1000000100100011 = some (.xorVxVy 1 2) ∧
    decodeTableWord 16 0b1000000000010100 = some (.addVxVy 0 1) ∧
    decodeTableWord 16 0b1000000100100101 = some (.subVxVy 1 2) ∧
    decodeTableWord 16 0b1000000011110110 = some (.shrVx 0 15) ∧
    decodeTableWord 16 0b1000000100100111 = some (.subnVxVy 1 2) ∧
    decodeTableWord 16 0b1000000100101110 = some (.shlVx 1 2) := by decide

theorem test_decode_index_memory :
    decodeTableWord 16 0b1010001100000000 = some (.ldIAddr 0x300) ∧
    decodeTableWord 16 0b1111010100011110 = some (.addIVx 5) ∧
    decodeTableWord 16 0b1111010100101001 = some (.ldFVx 5) ∧
    decodeTableWord 16 0b1111010100110011 = some (.ldBVx 5) ∧
    decodeTableWord 16 0b1111010101010101 = some (.ldMemVx 5) ∧
    decodeTableWord 16 0b1111111001100101 = some (.ldVxMem 14) := by decide

theorem test_decode_timers :
    decodeTableWord 16 0b1111010100000111 = some (.ldVxDt 5) ∧
    decodeTableWord 16 0b1111010100010101 = some (.ldDtVx 5) ∧
    decodeTableWord 16 0b1111010100011000 = some (.ldStVx 5) := by decide

theorem test_decode_ports :
    decodeTableWord 16 0b1100010100001111 = some (.rndVxByte 5 0x0F) ∧
    decodeTableWord 16 0b1101000100101111 = some (.drwVxVyN 1 2 15) ∧
    decodeTableWord 16 0b1110000110011110 = some (.skpVx 1) ∧
    decodeTableWord 16 0b1110000110100001 = some (.sknpVx 1) ∧
    decodeTableWord 16 0b1111001100001010 = some (.ldVxK 3) := by decide

/-- 95_test_vectors.md section 2.1: the unrecognised words it lists. -/
theorem test_decode_unrecognised :
    [0x0000, 0x00E1, 0x00FE, 0x0123, 0x5001, 0x500F, 0x8008, 0x800D, 0x800F, 0x9001, 0xE000, 0xE09F, 0xF000, 0xF01F,
      0xF030, 0xF056, 0xF075, 0xF085, 0xF0FF, 0xFFFF].all
      (fun w => decide (decodeTableWord 16 w = none)) = true := by decide

/-- 20_memory.md R46: high byte first, in both directions. -/
theorem test_encode_bytes : encode (.ldVxByte 0 5) = [0x60, 0x05] ∧ encode (.addVxVy 0 1) = [0x80, 0x14] := by decide

/-- 30_encoding.md R81: the texts of 95_test_vectors.md P1 and P3. -/
theorem test_asm : asmText (.ldVxByte 0 5) = "LD V0,5" ∧ asmText (.ldVxMem 2) = "LD V2,[I]" := by decide

/-! ### The cycle -/

/-- S8: CLS at the program base. -/
theorem test_cls : (after (withWord 0x00E0)).ports.trace = [.clear] ∧ (after (withWord 0x00E0)).pc = 0x202 ∧
    (after (withWord 0x00E0)).tickcnt = 1 := by decide

/-- An unrecognised word: no-operation, pulse, a counted cycle (section 2.1; T12). -/
theorem test_unrecognised_cycle :
    after { withWord 0x5001 with dt := 1, tickcnt := 7 } =
      { withWord 0x5001 with dt := 0, tickcnt := 0, unrecognised := true, pc := 0x202 } := by decide

/-- The odd program counter of part 3. -/
theorem test_odd_pc : (after { State.bytes State.reset 0x203 [0x6A, 0x55] with pc := 0x203 }).readV 10 = 0x55 ∧
    (after { State.bytes State.reset 0x203 [0x6A, 0x55] with pc := 0x203 }).pc = 0x205 := by decide

/-- F4, F20: a jump out of the window halts at the next fetch. -/
theorem test_window :
    faultOf (after (after (withWord 0x1FFF))) =
      (.halted, .programCounterOutOfProgramRegion, .none, 0xFFF, 0xFFF, 0xFFF) ∧
    faultOf (after (after (withWord 0xB000))) =
      (.halted, .programCounterOutOfProgramRegion, .none, 0, 0, 0) := by decide

/-- X1: a halted machine does not step. -/
theorem test_halted : after (after (withWord 0x00EE)) = after (withWord 0x00EE) := by decide

/-! ### Control flow -/

/-- F2, F3. -/
theorem test_ret :
    (execOf .ret { State.reset.writeSlot 14 0xABC with sp := 15 }).pc = 0xABC ∧
    (execOf .ret { State.reset.writeSlot 14 0xABC with sp := 15 }).sp = 14 ∧
    faultOf (execOf .ret { State.reset with pc := 0x300 }) =
      (.halted, .addressOutOfBounds, .stackPop, 0, 0x300, 0x300) := by decide

/-- F6: the largest return address in the last free slot. -/
theorem test_call : execOf (.callAddr 0xFFE) { State.reset with pc := 0xFFE, sp := 14 } =
    { State.reset.writeSlot 14 0x1000 with pc := 0xFFE, sp := 15 } := by decide

/-- F7. -/
theorem test_call_full : faultOf (execOf (.callAddr 0x300) { State.reset with pc := 0x204, sp := 15 }) =
    (.halted, .addressOutOfBounds, .stackPush, 15, 0x204, 0x204) := by decide

/-- F5, F18, F19. -/
theorem test_jumps : (after (withWord 0x1200)).pc = 0x200 ∧
    (after (State.regs (withWord 0xB2FE) [(0, 2)])).pc = 0x300 ∧
    (after (State.regs (withWord 0xBFFF) [(0, 0xFF)])).pc = 0x10FE := by decide

/-- F8 to F11, F17. -/
theorem test_skip_byte : (after (withWord 0x3A00)).pc = 0x204 ∧
    (after (State.regs (withWord 0x3AFF) [(10, 0xFE)])).pc = 0x202 ∧
    (after (State.regs (withWord 0x4AFF) [(10, 0xFE)])).pc = 0x204 ∧
    (after (withWord 0x4A00)).pc = 0x202 ∧
    (execOf (.seVxByte 0 0) { State.reset with pc := 0xFFE }).pc = 0x1002 := by decide

/-- F12, F13, F15, F16. -/
theorem test_skip_register : (after (State.regs (withWord 0x5AB0) [(10, 9), (11, 9)])).pc = 0x204 ∧
    (after (State.regs (withWord 0x5AB0) [(10, 9), (11, 8)])).pc = 0x202 ∧
    (after (State.regs (withWord 0x9AB0) [(10, 9), (11, 8)])).pc = 0x204 ∧
    (after (State.regs (withWord 0x9AA0) [(10, 77)])).pc = 0x202 := by decide

/-! ### ALU: the value of Vx and of VF after one step -/

/-- The registers x and VF after one step. -/
def resultAt (x : Reg) (s : State) : Nat × Nat := (((after s).readV x).toNat, ((after s).readV 15).toNat)

/-- S9 (its first word), A1. -/
theorem test_ld_byte : resultAt 0 (withWord 0x6005) = (5, 0) ∧ resultAt 15 (withWord 0x6FFF) = (255, 255) := by decide
/-- A2, A3. -/
theorem test_add_byte : resultAt 0 (State.regs (withWord 0x7001) [(0, 0xFF), (15, 1)]) = (0, 1) ∧
    resultAt 15 (State.regs (withWord 0x7F01) [(15, 0xFF)]) = (0, 0) := by decide
/-- A4. -/
theorem test_ld_reg : resultAt 15 (State.regs (withWord 0x8F00) [(0, 0x12)]) = (0x12, 0x12) := by decide
/-- A6, A7, A8. -/
theorem test_logic : resultAt 0 (State.regs (withWord 0x8011) [(0, 0xF0), (1, 0x0F), (15, 7)]) = (0xFF, 7) ∧
    resultAt 0 (State.regs (withWord 0x8012) [(0, 0xF0), (1, 0x3C), (15, 7)]) = (0x30, 7) ∧
    resultAt 0 (State.regs (withWord 0x8013) [(0, 0xF0), (1, 0x3C), (15, 7)]) = (0xCC, 7) := by decide
/-- S1, A11, A12. -/
theorem test_add : resultAt 0 (State.regs (withWord 0x8014) [(0, 200), (1, 100)]) = (44, 1) ∧
    resultAt 0 (State.regs (withWord 0x8014) [(0, 0xFF), (1, 0)]) = (255, 0) ∧
    resultAt 0 (State.regs (withWord 0x8014) [(0, 0x80), (1, 0x80)]) = (0, 1) := by decide
/-- A14, A15, A16. -/
theorem test_add_vf : resultAt 15 (State.regs (withWord 0x8F14) [(15, 0xFF), (1, 3)]) = (1, 1) ∧
    resultAt 0 (State.regs (withWord 0x80F4) [(0, 0xFF), (15, 1)]) = (0, 1) ∧
    resultAt 15 (State.regs (withWord 0x8FF4) [(15, 0x90)]) = (1, 1) := by decide
/-- A17, A18, A21. -/
theorem test_sub : resultAt 0 (State.regs (withWord 0x8015) [(0, 1), (1, 2)]) = (255, 0) ∧
    resultAt 0 (State.regs (withWord 0x8015) [(0, 7), (1, 7)]) = (0, 1) ∧
    resultAt 0 (State.regs (withWord 0x80F5) [(0, 5), (15, 6)]) = (255, 0) := by decide
/-- A22, A23, A24. -/
theorem test_shr : resultAt 0 (State.regs (withWord 0x8016) [(0, 1), (1, 0xFF)]) = (0, 1) ∧
    resultAt 0 (State.regs (withWord 0x8016) [(0, 0xFE), (1, 0xFF)]) = (0x7F, 0) ∧
    resultAt 15 (State.regs (withWord 0x8F06) [(15, 3)]) = (1, 1) := by decide
/-- A25, A26. -/
theorem test_subn : resultAt 0 (State.regs (withWord 0x8017) [(0, 2), (1, 1)]) = (255, 0) ∧
    resultAt 0 (State.regs (withWord 0x8017) [(0, 1), (1, 2)]) = (1, 1) := by decide
/-- A28, A29, A30. -/
theorem test_shl : resultAt 0 (State.regs (withWord 0x801E) [(0, 0x80), (1, 0x55)]) = (0, 1) ∧
    resultAt 0 (State.regs (withWord 0x801E) [(0, 0x7F)]) = (0xFE, 0) ∧
    resultAt 15 (State.regs (withWord 0x8F0E) [(15, 0x40)]) = (0, 0) := by decide

/-! ### I and Memory -/

/-- M1, M2. -/
theorem test_ld_i : (after (withWord 0xAFFF)).i = 0x0FFF ∧
    (after { withWord 0xA000 with i := 0x1234 }).i = 0 := by decide
/-- M3, M4, M5. -/
theorem test_add_i : (after { State.regs (withWord 0xF01E) [(0, 1)] with i := 0x0FFF }).i = 0x1000 ∧
    (after { State.regs (withWord 0xF01E) [(0, 1), (15, 9)] with i := 0xFFFF }).i = 0 ∧
    (after { State.regs (withWord 0xFF1E) [(15, 0xFF)] with i := 0x0100 }).readV 15 = 0xFF := by decide
/-- M6, M7, M8. -/
theorem test_ld_f : (after (State.regs (withWord 0xF029) [(0, 0x0F)])).i = 0x004B ∧
    (after (State.regs (withWord 0xF029) [(0, 0x10)])).i = 0x0050 ∧
    (after (State.regs (withWord 0xF029) [(0, 0xFF)])).i = 0x04FB := by decide
/-- S5, M12, M15. -/
theorem test_ld_b : bytesAt (after { State.regs (withWord 0xF033) [(0, 156)] with i := 0x300 }) 0x300 3 = [1, 5, 6] ∧
    bytesAt (after { State.regs (withWord 0xF033) [(0, 123)] with i := 0xFFD }) 0xFFD 3 = [1, 2, 3] ∧
    bytesAt (after { State.regs (withWord 0xF033) [(0, 156)] with i := 0x200 }) 0x200 3 = [1, 5, 6] := by decide
/-- M13, M14. -/
theorem test_ld_b_fault :
    bytesAt (after { State.regs (withWord 0xF033) [(0, 123)] with i := 0xFFE }) 0xFFE 2 = [1, 2] ∧
    faultOf (after { State.regs (withWord 0xF033) [(0, 123)] with i := 0xFFE }) =
      (.halted, .addressOutOfBounds, .memWrite, 0x1000, 0x200, 0x200) ∧
    faultOf (after { State.regs (withWord 0xF033) [(0, 123)] with i := 0x1000 }) =
      (.halted, .addressOutOfBounds, .memWrite, 0x1000, 0x200, 0x200) := by decide
/-- M16. -/
theorem test_store : bytesAt (after { State.regs (withWord 0xF055) [(0, 0x11), (1, 0x22)] with i := 0x400 }) 0x400 2 =
    [0x11, 0] ∧ (after { State.regs (withWord 0xF055) [(0, 0x11), (1, 0x22)] with i := 0x400 }).i = 0x400 := by decide
/-- The edge of M18 with x = 1: the first byte stands, the second faults. -/
theorem test_store_fault :
    bytesAt (after { State.regs (withWord 0xF155) [(0, 1), (1, 2)] with i := 0xFFF }) 0xFFF 1 = [1] ∧
    faultOf (after { State.regs (withWord 0xF155) [(0, 1), (1, 2)] with i := 0xFFF }) =
      (.halted, .addressOutOfBounds, .memWrite, 0x1000, 0x200, 0x200) := by decide
/-- M21 (the first six registers), M22. -/
theorem test_load : (List.range 6).map (fun k => ((after (withWord 0xFF65)).readV (BitVec.ofNat 4 k)).toNat) =
      [0xF0, 0x90, 0x90, 0x90, 0xF0, 0x20] ∧
    faultOf (after { withWord 0xF065 with i := 0xFFFF }) =
      (.halted, .addressOutOfBounds, .memRead, 0xFFFF, 0x200, 0x200) := by decide
/-- M20. -/
theorem test_load_fault :
    (after { State.bytes (withWord 0xF165) 0xFFF [0x5A] with i := 0xFFF }).readV 0 = 0x5A ∧
    faultOf (after { State.bytes (withWord 0xF165) 0xFFF [0x5A] with i := 0xFFF }) =
      (.halted, .addressOutOfBounds, .memRead, 0x1000, 0x200, 0x200) := by decide

/-! ### Timers -/

/-- T1: the read sees the value before this cycle's tick. -/
theorem test_read_dt : (after { withWord 0xF007 with dt := 0x80, tickcnt := 7 }).readV 0 = 0x80 ∧
    (after { withWord 0xF007 with dt := 0x80, tickcnt := 7 }).dt = 0x7F := by decide
/-- T2, T3. -/
theorem test_write_dt : (after { State.regs (withWord 0xF015) [(0, 5)] with tickcnt := 7 }).dt = 4 ∧
    (after { withWord 0xF015 with dt := 9 }).dt = 0 := by decide
/-- T4 and T5: the shortest tone. -/
theorem test_write_st : (after (State.regs (withWord 0xF018) [(0, 3)])).ports.trace = [.startTone] ∧
    (after { State.regs (withWord 0xF018) [(0, 1)] with tickcnt := 7 }).ports.trace = [.startTone, .stopTone] := by
  decide
/-- T6, T7, T8. -/
theorem test_st_edges : (after { withWord 0xF018 with st := 4 }).ports.trace = [.stopTone] ∧
    (after { State.regs (withWord 0xF018) [(0, 9)] with st := 4 }).ports.trace = [] ∧
    (after (withWord 0xF018)).ports.trace = [] := by decide
/-- T9, T10, T11. -/
theorem test_tick : (after { withWord 0x6000 with dt := 1, st := 1, tickcnt := 7 }).ports.trace = [.stopTone] ∧
    (after { withWord 0x6000 with tickcnt := 7 }).dt = 0 ∧
    (after { withWord 0x6000 with dt := 255, st := 2, tickcnt := 7 }).dt = 254 ∧
    (after { withWord 0x6000 with dt := 255, st := 2, tickcnt := 7 }).st = 1 := by decide
/-- T13: a faulted step does not count. -/
theorem test_fault_no_tick : (after { withWord 0x00EE with dt := 1, tickcnt := 7 }).dt = 1 ∧
    (after { withWord 0x00EE with dt := 1, tickcnt := 7 }).tickcnt = 7 := by decide

/-! ### Ports -/

/-- A state whose host has settled its answers. -/
def settled (s : State) (held : BitVec 16) (polls : List (Option Nibble)) (randoms : List Byte) : State :=
  { s with ports := { s.ports with screen := some Screen.blank, keys := some held, polls := polls, randoms := randoms } }

/-- I2, I4. -/
theorem test_rnd : (after (settled (State.regs (withWord 0xC0F0) [(0, 0xFF)]) 0 [] [0xAB])).readV 0 = 0xA0 ∧
    (after (settled (withWord 0xCFFF) 0 [] [0x5A])).readV 15 = 0x5A := by decide
/-- I10 to I13. -/
theorem test_key_skips : (after (settled (State.regs (withWord 0xE09E) [(0, 15)]) 0x8000 [] [])).pc = 0x204 ∧
    (after (settled (State.regs (withWord 0xE09E) [(0, 15)]) 0 [] [])).pc = 0x202 ∧
    (after (settled (withWord 0xE0A1) 1 [] [])).pc = 0x202 ∧
    (after (settled (withWord 0xE0A1) 0 [] [])).pc = 0x204 := by decide
/-- I15: the answered poll is a counted cycle. -/
theorem test_key_wait : (after { settled (withWord 0xFF0A) 0 [some 0xF] [] with dt := 2, tickcnt := 7 }).readV 15 = 15 ∧
    (after { settled (withWord 0xFF0A) 0 [some 0xF] [] with dt := 2, tickcnt := 7 }).dt = 1 ∧
    (after { settled (withWord 0xFF0A) 0 [some 0xF] [] with dt := 2, tickcnt := 7 }).pc = 0x202 := by decide
/-- I16: the unanswered one is not. -/
theorem test_key_wait_none : after { settled (withWord 0xF00A) 0 [none] [] with dt := 2, tickcnt := 7 } =
    { settled (withWord 0xF00A) 0 [] [] with dt := 2, tickcnt := 7, run := .awaitingKey, ports :=
      { (settled (withWord 0xF00A) 0 [] []).ports with trace := [.pollKey none] } } := by decide
/-- I5: no rows. -/
theorem test_draw_none : (after { State.regs (withWord 0xD010) [(15, 1)] with i := 0x1000 }).readV 15 = 0 ∧
    (after { State.regs (withWord 0xD010) [(15, 1)] with i := 0x1000 }).ports.trace = [] := by decide
/-- I8: the coordinates are passed whole. -/
theorem test_draw_coordinates :
    (after (settled (State.regs (withWord 0xD012) [(0, 0xFF), (1, 0xFF)]) 0 [] [])).ports.trace =
      [.drawByte 255 255 0xF0 false, .drawByte 255 256 0x90 false] := by decide
/-- I9: the old VF is both coordinates. -/
theorem test_draw_vf : (after (settled (State.regs (withWord 0xDFF1) [(15, 1)]) 0 [] [])).ports.trace =
    [.drawByte 1 1 0xF0 false] := by decide
/-- The pixels of I6: horizontal wrap inside the Display, and the collision of a second draw. -/
theorem test_display_wrap :
    (Screen.blank.drawByte 62 31 0xFF).1 = false ∧
    (List.range 8).map (fun px => (Screen.blank.drawByte 62 31 0xFF).2.pixel px 31) =
      [true, true, true, true, true, true, false, false] ∧
    ((Screen.blank.drawByte 62 31 0xFF).2.drawByte 62 31 0x01).1 = true := by decide
/-- I7: the row drawn stands, VF and PC are not written. -/
theorem test_draw_fault :
    (after { State.bytes (settled (State.regs (withWord 0xD012) [(0, 62), (1, 31)]) 0 [] []) 0xFFF [0xFF] with
      i := 0xFFF }).ports.trace = [.drawByte 62 31 0xFF false] ∧
    faultOf (after { State.bytes (settled (State.regs (withWord 0xD012) [(0, 62), (1, 31)]) 0 [] []) 0xFFF [0xFF] with
      i := 0xFFF }) = (.halted, .addressOutOfBounds, .memRead, 0x1000, 0x200, 0x200) := by decide

/-! ### Witnesses: for every statement with hypotheses, inputs that meet them, clause by clause at the boundary -/

/-- The reset state at some PC. -/
def atPc (w : Word) : State := { State.reset with pc := w }

/-- The reset state with some I. -/
def atI (w : Word) : State := { State.reset with i := w }

/-- The reset state with some SP. -/
def atSp (p : BitVec 4) : State := { State.reset with sp := p }

theorem witness_DecodedBytesAreTheEncoding : decodeBytes [0x60, 0x05, 0xAA] = .ok (.ldVxByte 0 5, [0xAA]) := rfl

theorem witness_OpcodeMapSelects : decodeWord 0x80F6 = .instr (.shrVx 0 15) ∧
    (0x80F6 : Word) &&& (opcodeRow (.shrVx 0 0)).mask = (opcodeRow (.shrVx 0 0)).pattern := by decide

theorem witness_MemReadIsBoundsChecked : State.reset.memRead 4095 = .ok 0 ∧ 4096 ≤ memSize ∧
    ∃ h, State.reset.memRead 4096 = .error h := ⟨rfl, by decide, _, rfl⟩

theorem witness_MemWriteIsBoundsChecked : State.reset.mem.wf = true ∧
    (∃ t, State.reset.memWrite 4095 7 = .ok t ∧ t.byteAt 4095 = 7) ∧ (∃ h, State.reset.memWrite 4096 7 = .error h) :=
  ⟨rfl, ⟨_, rfl, by decide⟩, _, rfl⟩

theorem witness_LoadProgramCopiesImage : State.reset.mem.wf = true ∧ (List.replicate 3584 (0 : Byte)).length ≤ 3584 :=
  ⟨rfl, (List.length_replicate ..).le⟩

/-- S7: 3584 bytes are loaded and 3585 are not. -/
theorem witness_RomTooLargeIffOverlong :
    (∃ t, State.reset.loadProgram (List.replicate 3584 0) = .next t) ∧
    State.reset.loadProgram (List.replicate 3585 0) = .fault .romTooLarge := by
  refine ⟨⟨State.reset.setMem (State.reset.mem.copyIn programBase (List.replicate 3584 0)), if_neg ?_⟩, if_pos ?_⟩
  · rw [List.length_replicate]; decide
  · rw [List.length_replicate]; decide

theorem witness_StepRunsDecodedInstruction : (withWord 0x6005).run ≠ .halted ∧ 0x200 ≤ (withWord 0x6005).pc.toNat ∧
    (withWord 0x6005).pc.toNat ≤ 0xFFE ∧
    decodeBytes [(withWord 0x6005).byteAt 0x200, (withWord 0x6005).byteAt 0x201] = .ok (.ldVxByte 0 5, []) ∧
    ∃ t, exec (.ldVxByte 0 5) { withWord 0x6005 with unrecognised := false, run := .running } = .next t ∧
      t.run = .running := ⟨by decide, by decide, by decide, rfl, _, rfl, by decide⟩

theorem witness_StepRunsDecodedInstruction_fault : ∃ t,
    exec .ret { withWord 0x00EE with unrecognised := false, run := .running } = .next t ∧ t.run = .halted :=
  ⟨_, rfl, by decide⟩

theorem witness_UnrecognisedWordIsNoOp : (atPc 0xFFE).run ≠ .halted ∧ 0x200 ≤ (atPc 0xFFE).pc.toNat ∧
    (atPc 0xFFE).pc.toNat ≤ 0xFFE ∧
    decodeBytes [(atPc 0xFFE).byteAt 0xFFE, (atPc 0xFFE).byteAt 0xFFF] = .error (.unrecognised 0) :=
  ⟨by decide, by decide, by decide, rfl⟩

theorem witness_FetchOutsideWindowHalts : (atPc 0x1FF).run ≠ .halted ∧ (atPc 0x1FF).pc.toNat < 0x200 ∧
    (atPc 0xFFF).run ≠ .halted ∧ 0xFFE < (atPc 0xFFF).pc.toNat := by decide

theorem witness_HaltedForGood : (after (withWord 0x00EE)).run = .halted := by decide

theorem witness_FaultedStepFreezes : (withWord 0x00EE).run ≠ .halted ∧
    ∃ t, step (withWord 0x00EE) = .next t ∧ t.run = .halted := ⟨by decide, _, rfl, by decide⟩

theorem witness_OnlySixInstructionsFault : State.reset.run ≠ .halted ∧
    ∃ t, exec .ret State.reset = .next t ∧ t.run = .halted := ⟨by decide, _, rfl, by decide⟩

/-- A state that waits for a key: `n` polls answer none, the next answers key 0xB. -/
def waiting (n : Nat) : State := settled (withWord 0xF30A) 0 (List.replicate n none ++ [some 0xB]) []

theorem witness_KeyWaitIsOneCycle : (waiting 2).run ≠ .halted ∧ 0x200 ≤ (waiting 2).pc.toNat ∧
    (waiting 2).pc.toNat ≤ 0xFFE ∧
    decodeBytes [(waiting 2).byteAt 0x200, (waiting 2).byteAt 0x201] = .ok (.ldVxK 3, []) ∧
    (waiting 2).ports.polls = List.replicate 2 none ++ some 0xB :: [] ∧
    (waiting 0).ports.polls = List.replicate 0 none ++ some 0xB :: [] :=
  ⟨by decide, by decide, by decide, rfl, rfl, rfl⟩

theorem witness_TimersCountCompletedCycles : (State.reset.setDt 1).dt ≠ 0 ∧ (State.reset.setDt 255).dt ≠ 0 := by decide

/-- The reset state meets the invariant. -/
theorem reset_meets_invariant : Invariant State.reset where
  memCanonical := rfl
  haltedIffLatched := by decide
  infoZero := fun _ => rfl
  onlyLatchable := by decide
  outOfBounds := fun h => by cases h
  outOfWindow := fun h => by cases h
  pulseOnlyRunning := fun h => by cases h
  returnAddresses := fun k h => by simp [State.reset] at h
  slot15Unused := rfl
  toneWhileSt := rfl
  awaitingAtKeyWait := fun h => by cases h

/-- A machine halted by the empty stack meets it. -/
theorem halted_meets_invariant : Invariant (after (withWord 0x00EE)) where
  memCanonical := by decide
  haltedIffLatched := by decide
  infoZero := by decide
  onlyLatchable := by decide
  outOfBounds := fun _ => ⟨by decide, by decide, show _ ∧ _ from ⟨by decide, by decide⟩⟩
  outOfWindow := by decide
  pulseOnlyRunning := by decide
  returnAddresses := by decide
  slot15Unused := by decide
  toneWhileSt := by decide
  awaitingAtKeyWait := fun h => absurd h (by decide)

theorem witness_StepKeepsInvariant : Invariant State.reset ∧ (∃ t, step State.reset = .next t) ∧
    Invariant (after (withWord 0x00EE)) ∧ (∃ t, step (after (withWord 0x00EE)) = .next t) :=
  ⟨reset_meets_invariant, ⟨_, rfl⟩, halted_meets_invariant, _, rfl⟩

theorem witness_LoadProgramKeepsInvariant : Invariant State.reset ∧ State.reset.run ≠ .awaitingKey ∧
    ∃ t, State.reset.loadProgram [0x60, 0x05] = .next t := ⟨reset_meets_invariant, by decide, _, rfl⟩

theorem witness_PcAdvancesByItsClass : (∃ t, exec (.seVxByte 0 0) State.reset = .next t ∧ t.run ≠ .halted) ∧
    (∃ t, exec .ret (atSp 1) = .next t ∧ t.run ≠ .halted) ∧
    (∃ t, exec (.ldVxK 3) (waiting 1) = .next t ∧ t.run ≠ .halted) :=
  ⟨⟨_, rfl, by decide⟩, ⟨_, rfl, by decide⟩, _, rfl, by decide⟩

theorem witness_ExecWritesOnlyItsRow : (∃ t, exec (.ldVxMem 15) (atI 0xFF1) = .next t) ∧
    usesStack (.ldVxMem 15) = false ∧ writesI (.ldVxMem 15) = false ∧ usesPort (.ldVxMem 15) = false ∧
    usesDisplay (.skpVx 0) = false ∧ canFault (.addIVx 0) = false ∧ (15 : Reg) ∉ writtenRegs (.ldVxMem 14) ∧
    (13 : BitVec 4) ≠ (atSp 14).sp := ⟨⟨_, rfl⟩, by decide⟩

/-- LD [I],VF at 0xFE0 leaves the first byte above its frame alone. -/
theorem witness_ExecWritesOnlyItsRow_stores : (∃ t, exec (.ldMemVx 15) (atI 0xFE0) = .next t ∧ t.byteAt 0xFF0 = 0) ∧
    0xFE0 + bytesStored (.ldMemVx 15) ≤ 0xFF0 := ⟨⟨_, rfl, by decide⟩, by decide⟩

theorem witness_TickCounterIsUnobservable : ∃ t, exec (.ldVxDt 3) State.reset = .next t := ⟨_, rfl⟩

theorem witness_SoundTimerIsUnreadable : (∀ x, Instr.ldVxDt 3 ≠ .ldStVx x) ∧
    ∃ t, exec (.ldVxDt 3) State.reset = .next t := ⟨fun _ => nofun, ⟨_, rfl⟩⟩

theorem witness_StaleSlotsAreUnobservable : (atSp 14).sp.toNat ≤ (14 : BitVec 4).toNat ∧
    (∃ t, exec (.callAddr 0x300) (atSp 14) = .next t) ∧ (∃ t, exec .ret (atSp 14) = .next t) :=
  ⟨by decide, ⟨_, rfl⟩, _, rfl⟩

theorem witness_StoredCodeIsFetched : State.reset.mem.wf = true ∧ 1 ≤ (1 : Reg).toNat ∧
    ({ atPc 0xFFC with i := 0xFFE } : State).i = ({ atPc 0xFFC with i := 0xFFE } : State).pc + 2 ∧
    ({ atPc 0xFFC with i := 0xFFE } : State).i.toNat + (1 : Reg).toNat + 1 ≤ 4096 := by decide

theorem witness_AddRegisters : (14 : Reg) ≠ 15 := by decide

theorem witness_FlagRemainsInVf : (∃ t, exec (.addVxVy 15 0) State.reset = .next t) ∧
    (∃ t, exec (.subVxVy 15 15) State.reset = .next t) ∧ (∃ t, exec (.subnVxVy 15 0) State.reset = .next t) ∧
    (∃ t, exec (.shrVx 15 0) State.reset = .next t) ∧ (∃ t, exec (.shlVx 15 0) State.reset = .next t) ∧
    (∃ t, exec (.drwVxVyN 15 0 1) (settled (atI 0xFFF) 0 [] []) = .next t ∧ t.run ≠ .halted) :=
  ⟨⟨_, rfl⟩, ⟨_, rfl⟩, ⟨_, rfl⟩, ⟨_, rfl⟩, ⟨_, rfl⟩, _, rfl, by decide⟩

theorem witness_CallPushesReturnAddress : (atSp 14).sp ≠ 15 ∧ (atSp 0).sp ≠ 15 := by decide

theorem witness_RetPopsReturnAddress : (atSp 15).sp ≠ 0 ∧ (atSp 1).sp ≠ 0 := by decide

theorem witness_StackLimitsHalt : (atSp 15).sp = 15 ∧ (atSp 0).sp = 0 := by decide

theorem witness_CallThenRetReturns : (atSp 14).sp ≠ 15 := by decide

theorem witness_KeySkips : (settled State.reset 0x8000 [] []).ports.keys = some 0x8000 ∧
    ((State.regs (settled State.reset 0x8000 [] []) [(0, 15)]).readV 0).toNat ≤ 15 := by decide

theorem witness_DecimalDigitsStored : (atI 0xFFD).mem.wf = true ∧ (atI 0xFFD).effectiveAddr 0 + 3 ≤ 4096 := by decide

theorem witness_RegistersStored : (atI 0xFF0).mem.wf = true ∧ (atI 0xFF0).effectiveAddr (15 : Reg).toNat < 4096 := by
  decide

theorem witness_RegistersLoaded : (atI 0xFFF).effectiveAddr (0 : Reg).toNat < 4096 ∧
    (atI 0xFF0).effectiveAddr (15 : Reg).toNat < 4096 := by decide

theorem witness_StorePastMemoryHalts : (atI 0xFFE).mem.wf = true ∧ 4096 < (atI 0xFFE).effectiveAddr 0 + 3 ∧
    4096 ≤ (atI 0xFF1).effectiveAddr (15 : Reg).toNat ∧ 4096 ≤ (atI 0xFFFF).effectiveAddr (0 : Reg).toNat := by decide

theorem witness_LoadPastMemoryHalts : 4096 ≤ (atI 0xFF1).effectiveAddr (15 : Reg).toNat ∧
    4096 ≤ (atI 0xFFFF).effectiveAddr (0 : Reg).toNat := by decide

theorem witness_ReferenceDisplayClears : (settled State.reset 0 [] []).ports.screen = some Screen.blank ∧
    State.reset.ports.screen = none := by decide

theorem witness_RandomByteIsMasked : (settled State.reset 0 [] [0xAB, 0]).ports.randoms = 0xAB :: [0] := by decide

theorem witness_SpriteDrawn : (0 : Nibble) = 0 ∧ (atI 0xFFF).effectiveAddr (1 : Nibble).toNat ≤ 4096 ∧
    (atI 0xFF1).effectiveAddr (15 : Nibble).toNat ≤ 4096 ∧ State.reset.ports.screen = none ∧
    (atI 0xFFF).byteAt ((atI 0xFFF).effectiveAddr 0) = 0 := by decide

theorem witness_SpritePastMemoryHalts : (2 : Nibble) ≠ 0 ∧ 4096 < (atI 0xFFF).effectiveAddr (2 : Nibble).toNat ∧
    4096 < (atI 0xFFFF).effectiveAddr (1 : Nibble).toNat := by decide

theorem witness_ReferenceDisplayXors : (63 < 64 ∧ 31 < 32) ∧ (31 = (31 : BitVec 9).toNat % 32 ∧
    ∃ k < 8, 63 = ((56 : Byte).toNat + k) % 64 ∧ (1 : Byte).getLsbD (7 - k) = true) ∧
    ¬ (0 = (31 : BitVec 9).toNat % 32) := ⟨by decide, ⟨by decide, 7, by decide, by decide, by decide⟩, by decide⟩

theorem witness_SpriteDrawnTwiceRestores : (settled (atI 0x23) 0 [] []).ports.screen = some Screen.blank ∧
    (0 : Reg) ≠ 15 ∧ (1 : Reg) ≠ 15 ∧ (settled (atI 0x23) 0 [] []).effectiveAddr (5 : Nibble).toNat ≤ 4096 := by decide

theorem witness_KeyWaitPollsOnce : (waiting 0).ports.polls = some 0xB :: [] ∧
    (waiting 1).ports.polls = none :: [some 0xB] := by decide

end Sys2Proof.Machine.Tests
end

/-! What VF holds after an instruction that writes a flag: the value of a flag as a number, the flag the ALU leaves in
VF whatever its destination is, and the collision flag of a DRW that no fault ended. -/

namespace Sys2Proof.Machine.Proofs

open Sys2Proof.Machine.Laws

/-! ### Flags as numbers (10_state.md R12) -/

theorem flagByte_decide_toNat (p : Prop) [Decidable p] : (flagByte (decide p)).toNat = if p then 1 else 0 := by
  by_cases h : p <;> simp [flagByte, h]

theorem flagByte_carry_toNat (a b : Byte) :
    (flagByte (carry a b)).toNat = if 255 < a.toNat + b.toNat then 1 else 0 :=
  flagByte_decide_toNat _

theorem flagByte_noBorrow_toNat (a b : Byte) :
    (flagByte (noBorrow a b)).toNat = if b.toNat ≤ a.toNat then 1 else 0 :=
  flagByte_decide_toNat _

/-- A single bit of a byte, as VF holds it. -/
theorem flagByte_getLsbD_toNat (a : Byte) (k : Nat) : (flagByte (a.getLsbD k)).toNat = a.toNat / 2 ^ k % 2 := by
  rw [BitVec.getLsbD, Nat.testBit_eq_decide_div_mod_eq, flagByte_decide_toNat]
  split <;> omega

theorem flagByte_lowBit_toNat (a : Byte) : (flagByte (lowBit a)).toNat = a.toNat % 2 := by
  rw [lowBit, flagByte_getLsbD_toNat, pow_zero, Nat.div_one]

theorem flagByte_highBit_toNat (a : Byte) : (flagByte (highBit a)).toNat = a.toNat / 128 := by
  rw [highBit, flagByte_getLsbD_toNat]
  have := a.isLt
  omega

/-- The collision flag of a sprite: whether any of its rows collided (44_io.md R162). -/
theorem flagByte_any_toNat (cs : List Bool) : (flagByte (cs.any id)).toNat = if true ∈ cs then 1 else 0 := by
  have h : cs.any id = decide (true ∈ cs) := by rw [Bool.eq_iff_iff]; simp
  rw [h, flagByte_decide_toNat]

/-! ### Where the flag goes (10_state.md R14) -/

/-- An ALU function that computes a flag leaves it in VF, also where VF is the destination: VF is written last. -/
theorem aluStep_readV_vf (s : State) {fn : AluFn} (x : Reg) {b : Byte} {f : Bool}
    (hf : (alu fn (s.readV x) b).2 = some f) : (s.aluStep fn x b).readV vf = flagByte f := by
  unfold State.aluStep
  generalize alu fn (s.readV x) b = r at hf
  obtain ⟨r, f'⟩ := r
  subst hf
  simp [State.writeBack]

/-- The flag of an execute phase that is one ALU step, read back from VF as a number. -/
theorem readV_vf_toNat_of_aluStep {s t : State} {fn : AluFn} {x : Reg} {b : Byte} {f : Bool} {v : Nat}
    (h : (.next (s.aluStep fn x b) : Host.Outcome State Fault Refusal) = .next t)
    (hf : (alu fn (s.readV x) b).2 = some f) (hv : (flagByte f).toNat = v) : (t.readV vf).toNat = v := by
  rw [← Host.Outcome.next.inj h, aluStep_readV_vf s x hf, hv]

/-- A DRW that no fault ended made the calls of some rows, and wrote the port side, VF with their collision flag, and PC. -/
theorem exec_drw_of_not_halted {s t : State} {x y : Reg} {n : Nibble} (h : exec (.drwVxVyN x y n) s = .next t)
    (hrun : t.run ≠ .halted) :
    ∃ cs q, q.trace = s.ports.trace ++ rowCalls s (s.effectiveAddr 0) (s.readV x) (s.readV y) cs ∧
      t = ((s.setPorts q).writeV vf (flagByte (cs.any id))).advance := by
  have ht := Host.Outcome.next.inj h
  rcases drawRows_both s (s.effectiveAddr 0) n.toNat (s.readV x) (s.readV y) with
    ⟨cs, q, he, htr, _⟩ | ⟨cs, q, he, _⟩ <;> rw [he] at ht
  · exact ⟨cs, q, htr, ht.symm⟩
  · exact absurd (ht ▸ rfl) hrun

/-- Settles O38: each ALU clause is the flag VF is written with last, read as a number; the DRW clause is the collision
flag of the rows drawn, their coordinates read before VF is written. -/
theorem flagRemainsInVf : Obligations.FlagRemainsInVf := by
  intro s y
  refine ⟨fun _ hadd => readV_vf_toNat_of_aluStep hadd rfl (flagByte_carry_toNat _ _),
    fun _ hsub => readV_vf_toNat_of_aluStep hsub rfl (flagByte_noBorrow_toNat _ _),
    fun _ hsubn => readV_vf_toNat_of_aluStep hsubn rfl (flagByte_noBorrow_toNat _ _),
    fun _ hshr => readV_vf_toNat_of_aluStep hshr rfl (flagByte_lowBit_toNat _),
    fun _ hshl => readV_vf_toNat_of_aluStep hshl rfl (flagByte_highBit_toNat _),
    fun n t hdrw hrun => ?_⟩
  obtain ⟨cs, q, htrace, rfl⟩ := exec_drw_of_not_halted hdrw hrun
  refine ⟨cs, htrace, ?_⟩
  rw [advance_readV, readV_writeV_same, flagByte_any_toNat]

end Sys2Proof.Machine.Proofs

/-! What a fetch reads: the value of the word two bytes join to (20_memory.md R46). -/

namespace Sys2Proof.Machine.Proofs

/-- The first byte is the high one: it sits above the eight bits of the second. -/
theorem joinBytes_toNat (hi lo : Byte) : (joinBytes hi lo).toNat = 256 * hi.toNat + lo.toNat :=
  calc (joinBytes hi lo).toNat
    _ = hi.toNat <<< 8 ||| lo.toNat := BitVec.toNat_append hi lo
    _ = hi.toNat <<< 8 + lo.toNat := (Nat.shiftLeft_add_eq_or_of_lt lo.isLt hi.toNat).symm
    _ = 256 * hi.toNat + lo.toNat := by rw [Nat.shiftLeft_eq, Nat.mul_comm]

/-- Settles O13: the fetched word joins the bytes at PC and PC + 1, whatever they are. -/
theorem fetchIsBigEndian : Obligations.FetchIsBigEndian :=
  fun s => joinBytes_toNat (s.byteAt s.pc.toNat) (s.byteAt (s.pc.toNat + 1))

end Sys2Proof.Machine.Proofs

/-! Register loads and the ALU (41_alu.md): the words 6xkk and 8xy4 decoded, the frame of an instruction that writes
general registers only, and the execute phases of LD Vx,byte and ADD Vx,Vy as register writes. -/

namespace Sys2Proof.Machine.Proofs

open Sys2Proof.Machine.Laws

/-! ### Decoding a word given as a number (30_encoding.md R71, R74) -/

/-- A field cut out of the word of a number is the field whose value is that part of the number. -/
theorem extractLsb'_ofNat_eq {m k n : Nat} {f : BitVec n} (h : m % 65536 / 2 ^ k % 2 ^ n = f.toNat) :
    (BitVec.ofNat 16 m).extractLsb' k n = f :=
  BitVec.eq_of_toNat_eq (by simpa [Nat.shiftRight_eq_div_pow] using h)

/-- N3 = 6 selects LD Vx,byte. -/
theorem decodeWord_of_n3_six {w : Word} (hn3 : (splitWord w).n3 = 6) :
    decodeWord w = .instr (.ldVxByte (splitWord w).x (splitWord w).byte) := by
  simp [decodeWord, hn3]

/-- N3 = 8 with N0 = 4 selects ADD Vx,Vy. -/
theorem decodeWord_of_n3_eight_n0_four {w : Word} (hn3 : (splitWord w).n3 = 8) (hn0 : (splitWord w).n0 = 4) :
    decodeWord w = .instr (.addVxVy (splitWord w).x (splitWord w).y) := by
  simp [decodeWord, decodeFamily8, hn3, hn0]

theorem decodeWord_6xkk (x : Reg) (b : Byte) :
    decodeWord (BitVec.ofNat 16 (0x6000 + 256 * x.toNat + b.toNat)) = .instr (.ldVxByte x b) := by
  have hx := x.isLt
  have hb := b.isLt
  generalize hw : BitVec.ofNat 16 (0x6000 + 256 * x.toNat + b.toNat) = w
  have hn3 : (splitWord w).n3 = 6 := hw ▸ extractLsb'_ofNat_eq (by change _ = 6; omega)
  have hfx : (splitWord w).x = x := hw ▸ extractLsb'_ofNat_eq (by omega)
  have hfb : (splitWord w).byte = b := hw ▸ extractLsb'_ofNat_eq (by omega)
  rw [decodeWord_of_n3_six hn3, hfx, hfb]

theorem decodeWord_8xy4 (x y : Reg) :
    decodeWord (BitVec.ofNat 16 (0x8004 + 256 * x.toNat + 16 * y.toNat)) = .instr (.addVxVy x y) := by
  have hx := x.isLt
  have hy := y.isLt
  generalize hw : BitVec.ofNat 16 (0x8004 + 256 * x.toNat + 16 * y.toNat) = w
  have hn3 : (splitWord w).n3 = 8 := hw ▸ extractLsb'_ofNat_eq (by change _ = 8; omega)
  have hn0 : (splitWord w).n0 = 4 := hw ▸ extractLsb'_ofNat_eq (by change _ = 4; omega)
  have hfx : (splitWord w).x = x := hw ▸ extractLsb'_ofNat_eq (by omega)
  have hfy : (splitWord w).y = y := hw ▸ extractLsb'_ofNat_eq (by omega)
  rw [decodeWord_of_n3_eight_n0_four hn3 hn0, hfx, hfy]

/-! ### The frame of register writes -/

theorem onlyRegs_refl (l : List Reg) (s : State) : OnlyRegs l s s :=
  ⟨fun _ _ => rfl, fun _ => rfl, ⟨rfl, fun _ => rfl⟩, ⟨rfl, rfl, rfl⟩, ⟨rfl, rfl, rfl, rfl⟩, rfl, rfl⟩

/-- A write to a register of the frame stays in the frame. -/
theorem onlyRegs_writeV {l : List Reg} {s t : State} {x : Reg} (b : Byte) (h : OnlyRegs l s t) (hx : x ∈ l) :
    OnlyRegs l s (t.writeV x b) := by
  obtain ⟨hregs, hrest⟩ := h
  refine ⟨fun r hr => ?_, hrest⟩
  rw [readV_writeV_other t b (ne_of_mem_of_not_mem hx hr).symm, hregs r hr]

/-- The frame leaves PC free. -/
theorem onlyRegs_advance {l : List Reg} {s t : State} (h : OnlyRegs l s t) : OnlyRegs l s t.advance := h

/-! ### The two execute phases as register writes (41_alu.md R121, R127) -/

theorem exec_ldVxByte (s : State) (x : Reg) (b : Byte) : exec (.ldVxByte x b) s = .next (s.writeV x b).advance := rfl

/-- The operands are read before either write (41_alu.md R133), and VF is written after the destination (10_state.md
R14). -/
theorem exec_addVxVy (s : State) (x y : Reg) : exec (.addVxVy x y) s =
    .next ((s.writeV x (s.readV x + s.readV y)).writeV vf (flagByte (carry (s.readV x) (s.readV y)))).advance := rfl

/-- Settles O32: LD Vx,byte is one register write and the advance of PC. -/
theorem loadImmediate : Obligations.LoadImmediate := by
  intro s x b
  refine ⟨decodeWord_6xkk x b, _, exec_ldVxByte s x b, readV_writeV_same s x b, rfl, ?_⟩
  exact onlyRegs_advance (onlyRegs_writeV b (onlyRegs_refl [x] s) (by simp))

/-- Settles O35: the sum is written to Vx first and the carry to VF after it, so that the sum is lost for x = 15
only. -/
theorem addRegisters : Obligations.AddRegisters := by
  intro s x y
  refine ⟨decodeWord_8xy4 x y, _, exec_addVxVy s x y, fun hx => ?_, ?_, rfl, ?_⟩
  · rw [advance_readV, readV_writeV_other _ _ hx, readV_writeV_same, BitVec.toNat_add]
  · rw [advance_readV, readV_writeV_same, flagByte_carry_toNat]
  · exact onlyRegs_advance (onlyRegs_writeV _ (onlyRegs_writeV _ (onlyRegs_refl _ s) (by simp)) (by simp))

end Sys2Proof.Machine.Proofs

/-! The execute phase of CLS (44_io.md R160): one call of the Display port, then the advance of PC. -/

namespace Sys2Proof.Machine.Proofs

theorem exec_cls (s : State) : exec .cls s = .next s.displayClear.advance := rfl

theorem displayClear_trace (s : State) : s.displayClear.ports.trace = s.ports.trace ++ [.clear] := rfl

/-- Of the whole state the call touches the pixels and the trace alone: both put back, the state is the one before. -/
theorem displayClear_restored (s : State) :
    { s.displayClear with
      ports := { s.displayClear.ports with trace := s.ports.trace, screen := s.ports.screen } } = s := rfl

/-- The frame of the call: nothing but the pixels and the trace differs. -/
theorem displayClear_frame (s : State) : OnlyRegs [] s
    { s.displayClear with
      ports := { s.displayClear.ports with trace := s.ports.trace, screen := s.ports.screen } } := by
  rw [displayClear_restored]
  exact onlyRegs_refl [] s

/-- Settles O53: CLS is the one call, framed but for its trace entry and the pixels, and the advance of PC. -/
theorem clearDisplay : Obligations.ClearDisplay :=
  ⟨rfl, fun s => ⟨_, exec_cls s, displayClear_trace s, rfl, onlyRegs_advance (displayClear_frame s)⟩⟩

end Sys2Proof.Machine.Proofs

/-! The loader (70_reset_and_hazards.md R202): an image is copied in whole or refused whole, by its length alone. -/

namespace Sys2Proof.Machine.Proofs

theorem romMax_eq : romMax = 3584 := rfl

theorem loadProgram_of_overlong (s : State) {image : List Byte} (h : romMax < image.length) :
    s.loadProgram image = .fault .romTooLarge := if_pos h

theorem loadProgram_of_fits (s : State) {image : List Byte} (h : image.length ≤ romMax) :
    s.loadProgram image = .next (s.setMem (s.mem.copyIn programBase image)) := if_neg h.not_gt

/-- Settles O11: an image longer than `ROM_MAX` is refused, and one that fits leads to a next state, so to no fault. -/
theorem romTooLargeIffOverlong : Obligations.RomTooLargeIffOverlong := by
  intro s image
  rw [← romMax_eq]
  refine ⟨fun hfault => ?_, loadProgram_of_overlong s⟩
  by_contra hshort
  rw [loadProgram_of_fits s (Nat.le_of_not_lt hshort)] at hfault
  cases hfault

end Sys2Proof.Machine.Proofs

/-! The decoder and the encoder as inverses (30_encoding.md R70 to R78): the fields of a word written as its nibbles,
the word put together from its fields, and the two round trips. -/

namespace Sys2Proof.Machine.Proofs

/-! ### The fields of a word written nibble by nibble (30_encoding.md R71, R72) -/

@[simp] theorem splitWord_addr_n3 (n : Nibble) (a : Addr) : (splitWord (n ++ a)).n3 = n :=
  BitVec.extractLsb'_append_eq_left

@[simp] theorem splitWord_addr_addr (n : Nibble) (a : Addr) : (splitWord (n ++ a)).addr = a :=
  BitVec.extractLsb'_append_eq_right

@[simp] theorem splitWord_byte_n3 (n x : Nibble) (b : Byte) : (splitWord (n ++ x ++ b)).n3 = n :=
  (BitVec.extractLsb'_append_eq_of_le (by decide)).trans BitVec.extractLsb'_append_eq_left

@[simp] theorem splitWord_byte_x (n x : Nibble) (b : Byte) : (splitWord (n ++ x ++ b)).x = x :=
  (BitVec.extractLsb'_append_eq_of_le (by decide)).trans BitVec.extractLsb'_append_eq_right

@[simp] theorem splitWord_byte_byte (n x : Nibble) (b : Byte) : (splitWord (n ++ x ++ b)).byte = b :=
  BitVec.extractLsb'_append_eq_right

@[simp] theorem splitWord_nibbles_n3 (n x y m : Nibble) : (splitWord (n ++ x ++ y ++ m)).n3 = n :=
  (BitVec.extractLsb'_append_eq_of_le (by decide)).trans
    ((BitVec.extractLsb'_append_eq_of_le (by decide)).trans BitVec.extractLsb'_append_eq_left)

@[simp] theorem splitWord_nibbles_x (n x y m : Nibble) : (splitWord (n ++ x ++ y ++ m)).x = x :=
  (BitVec.extractLsb'_append_eq_of_le (by decide)).trans
    ((BitVec.extractLsb'_append_eq_of_le (by decide)).trans BitVec.extractLsb'_append_eq_right)

@[simp] theorem splitWord_nibbles_y (n x y m : Nibble) : (splitWord (n ++ x ++ y ++ m)).y = y :=
  (BitVec.extractLsb'_append_eq_of_le (by decide)).trans BitVec.extractLsb'_append_eq_right

@[simp] theorem splitWord_nibbles_n0 (n x y m : Nibble) : (splitWord (n ++ x ++ y ++ m)).n0 = m :=
  BitVec.extractLsb'_append_eq_right

@[simp] theorem splitWord_nibbles_n (n x y m : Nibble) : (splitWord (n ++ x ++ y ++ m)).n = m :=
  BitVec.extractLsb'_append_eq_right

/-! ### A word put together from its fields -/

theorem joinBytes_wordBytes (w : Word) : joinBytes (w.extractLsb' 8 8) (w.extractLsb' 0 8) = w :=
  (BitVec.extractLsb'_append_extractLsb'_eq_extractLsb' rfl).trans BitVec.extractLsb'_eq_self

theorem wordBytes_joinBytes (hi lo : Byte) : wordBytes (joinBytes hi lo) = [hi, lo] := by
  rw [wordBytes, joinBytes, BitVec.extractLsb'_append_eq_left, BitVec.extractLsb'_append_eq_right]

theorem n3_append_addr (w : Word) : (splitWord w).n3 ++ (splitWord w).addr = w :=
  (BitVec.extractLsb'_append_extractLsb'_eq_extractLsb' rfl).trans BitVec.extractLsb'_eq_self

theorem n3_append_x_byte (w : Word) : (splitWord w).n3 ++ (splitWord w).x ++ (splitWord w).byte = w :=
  (congrArg (· ++ (splitWord w).byte) (BitVec.extractLsb'_append_extractLsb'_eq_extractLsb' rfl)).trans
    (joinBytes_wordBytes w)

theorem n3_append_x_y_n0 (w : Word) :
    (splitWord w).n3 ++ (splitWord w).x ++ (splitWord w).y ++ (splitWord w).n0 = w := by
  have hx : (splitWord w).n3 ++ (splitWord w).x = w.extractLsb' 8 8 :=
    BitVec.extractLsb'_append_extractLsb'_eq_extractLsb' rfl
  have hy : w.extractLsb' 8 8 ++ (splitWord w).y = w.extractLsb' 4 12 :=
    BitVec.extractLsb'_append_extractLsb'_eq_extractLsb' rfl
  rw [hx, hy]
  exact (BitVec.extractLsb'_append_extractLsb'_eq_extractLsb' rfl).trans BitVec.extractLsb'_eq_self

/-! ### The word of each family, from the fields its selection tests (30_encoding.md R74, R75) -/

section
variable {w : Word} {n m : Nibble} {b : Byte}

theorem word_of_addr (h3 : (splitWord w).n3.toNat = n.toNat) : n ++ (splitWord w).addr = w := by
  rw [← BitVec.eq_of_toNat_eq h3, n3_append_addr]

theorem word_of_x_byte (h3 : (splitWord w).n3.toNat = n.toNat) : n ++ (splitWord w).x ++ (splitWord w).byte = w := by
  rw [← BitVec.eq_of_toNat_eq h3, n3_append_x_byte]

theorem word_of_x (h3 : (splitWord w).n3.toNat = n.toNat) (hb : (splitWord w).byte.toNat = b.toNat) :
    n ++ (splitWord w).x ++ b = w := by
  rw [← BitVec.eq_of_toNat_eq hb, word_of_x_byte h3]

theorem word_of_x_y_n0 (h3 : (splitWord w).n3.toNat = n.toNat) :
    n ++ (splitWord w).x ++ (splitWord w).y ++ (splitWord w).n0 = w := by
  rw [← BitVec.eq_of_toNat_eq h3, n3_append_x_y_n0]

theorem word_of_x_y (h3 : (splitWord w).n3.toNat = n.toNat) (h0 : (splitWord w).n0.toNat = m.toNat) :
    n ++ (splitWord w).x ++ (splitWord w).y ++ m = w := by
  rw [← BitVec.eq_of_toNat_eq h0, word_of_x_y_n0 h3]

end

theorem encodeWord_of_decodeFamily0 {w : Word} {i : Instr} (h : decodeFamily0 w = .instr i) : encodeWord i = w := by
  unfold decodeFamily0 at h
  split at h <;> cases h
  case h_1 hw | h_2 hw => exact BitVec.eq_of_toNat_eq hw.symm

theorem encodeWord_of_decodeFamily8 {w : Word} {i : Instr} (h3 : (splitWord w).n3.toNat = 8)
    (h : decodeFamily8 (splitWord w) = .instr i) : encodeWord i = w := by
  unfold decodeFamily8 at h
  split at h <;> cases h
  all_goals exact word_of_x_y h3 ‹_›

theorem encodeWord_of_decodeFamilyE {w : Word} {i : Instr} (h3 : (splitWord w).n3.toNat = 14)
    (h : decodeFamilyE (splitWord w) = .instr i) : encodeWord i = w := by
  unfold decodeFamilyE at h
  split at h <;> cases h
  all_goals exact word_of_x h3 ‹_›

theorem encodeWord_of_decodeFamilyF {w : Word} {i : Instr} (h3 : (splitWord w).n3.toNat = 15)
    (h : decodeFamilyF (splitWord w) = .instr i) : encodeWord i = w := by
  unfold decodeFamilyF at h
  split at h <;> cases h
  all_goals exact word_of_x h3 ‹_›

/-! ### The two round trips -/

theorem decodeWord_encodeWord (i : Instr) : decodeWord (encodeWord i) = .instr i := by
  cases i with
  | cls => rfl
  | ret => rfl
  | _ => simp [encodeWord, decodeWord, decodeFamily8, decodeFamilyE, decodeFamilyF]

theorem encodeWord_of_decodeWord {w : Word} {i : Instr} (h : decodeWord w = .instr i) : encodeWord i = w := by
  unfold decodeWord at h
  dsimp only at h
  split at h
  case h_1 => exact encodeWord_of_decodeFamily0 h
  case h_9 h3 => exact encodeWord_of_decodeFamily8 h3 h
  case h_15 h3 => exact encodeWord_of_decodeFamilyE h3 h
  case h_16 =>
    have h3 : (splitWord w).n3.toNat = 15 := by
      have := (splitWord w).n3.isLt
      simp only [imp_false] at *
      omega
    exact encodeWord_of_decodeFamilyF h3 h
  case h_6 h3 | h_10 h3 =>
    split at h <;> cases h
    exact word_of_x_y h3 (congrArg BitVec.toNat ‹_›)
  case h_2 h3 | h_3 h3 | h_11 h3 | h_12 h3 => cases h; exact word_of_addr h3
  case h_14 h3 => cases h; exact word_of_x_y_n0 h3
  all_goals cases h; exact word_of_x_byte ‹_›

/-- The decoder and the encoder are inverse: the instruction read from a word is the one whose word it is. -/
theorem decodeWord_eq_instr_iff {w : Word} {i : Instr} : decodeWord w = .instr i ↔ encodeWord i = w :=
  ⟨encodeWord_of_decodeWord, fun h => h ▸ decodeWord_encodeWord i⟩

/-- Settles O1: the two bytes of an instruction join to its word again, and its word decodes to it. -/
theorem decodeEncodeRoundTrip : Obligations.DecodeEncodeRoundTrip := by
  intro i rest
  simp only [encode, wordBytes, List.cons_append, List.nil_append, decodeBytes, joinBytes_wordBytes,
    decodeWord_encodeWord]

/-- Bytes that decode are two bytes whose joined word is that of the instruction, and the rest. -/
theorem decodeBytes_eq_ok_iff {bytes rest : List Byte} {i : Instr} :
    decodeBytes bytes = .ok (i, rest) ↔
      ∃ hi lo, bytes = hi :: lo :: rest ∧ decodeWord (joinBytes hi lo) = .instr i := by
  unfold decodeBytes
  split
  next hi lo rest' => split <;> simp_all [and_comm]
  next h =>
    simp only [reduceCtorEq, false_iff]
    rintro ⟨hi, lo, hb, -⟩
    exact h hi lo rest hb

/-- Settles O2: the word the first two bytes join to is the instruction's, and it comes apart into those bytes. -/
theorem decodedBytesAreTheEncoding : Obligations.DecodedBytesAreTheEncoding := by
  intro bytes rest i h
  obtain ⟨hi, lo, rfl, hdecode⟩ := decodeBytes_eq_ok_iff.mp h
  rw [encode, encodeWord_of_decodeWord hdecode, wordBytes_joinBytes]
  rfl

/-- Settles O3: twelve closed words, each decoded by computation. -/
theorem specWordsDecode : Obligations.SpecWordsDecode := by
  unfold Obligations.SpecWordsDecode
  decide

end Sys2Proof.Machine.Proofs

/-! The opcode map (30_encoding.md R76, R80): what the mask of a row leaves of a word, which row a word selects, and the
words that select none. -/

namespace Sys2Proof.Machine.Proofs

/-! ### What the selection tests, as numbers (30_encoding.md R73) -/

theorem splitWord_n3_toNat (w : Word) : (splitWord w).n3.toNat = w.toNat / 4096 := by
  have hw := w.isLt
  have h : (splitWord w).n3.toNat = w.toNat / 4096 % 16 := by
    simp [splitWord, Nat.shiftRight_eq_div_pow]
  omega

theorem splitWord_n0_toNat (w : Word) : (splitWord w).n0.toNat = w.toNat % 16 := by
  simp [splitWord]

theorem splitWord_byte_toNat (w : Word) : (splitWord w).byte.toNat = w.toNat % 256 := by
  simp [splitWord]

/-! ### The masks of the opcode map (30_encoding.md R76): a nibble F keeps a nibble of the word, a nibble 0 drops it -/

theorem and_mask_n3 (w : Word) : w &&& 0xF000 = (splitWord w).n3 ++ 0#12 := by
  have hmask : (0xF000 : Word) = BitVec.allOnes 4 ++ 0#12 := rfl
  conv_lhs => rw [← n3_append_addr w]
  rw [hmask, BitVec.and_append, BitVec.and_allOnes, BitVec.and_zero]

theorem and_mask_n3_byte (w : Word) : w &&& 0xF0FF = (splitWord w).n3 ++ 0#4 ++ (splitWord w).byte := by
  have hmask : (0xF0FF : Word) = BitVec.allOnes 4 ++ 0#4 ++ BitVec.allOnes 8 := rfl
  conv_lhs => rw [← n3_append_x_byte w]
  rw [hmask, BitVec.and_append, BitVec.and_append, BitVec.and_allOnes, BitVec.and_allOnes, BitVec.and_zero]

theorem and_mask_n3_n0 (w : Word) : w &&& 0xF00F = (splitWord w).n3 ++ 0#4 ++ 0#4 ++ (splitWord w).n0 := by
  have hmask : (0xF00F : Word) = BitVec.allOnes 4 ++ 0#4 ++ 0#4 ++ BitVec.allOnes 4 := rfl
  conv_lhs => rw [← n3_append_x_y_n0 w]
  rw [hmask, BitVec.and_append, BitVec.and_append, BitVec.and_append, BitVec.and_allOnes, BitVec.and_allOnes,
    BitVec.and_zero, BitVec.and_zero]

theorem n3_of_mask_n3 {w p : Word} (h : w &&& 0xF000 = p) : (splitWord w).n3 = (splitWord p).n3 := by
  rw [← h, and_mask_n3, splitWord_addr_n3]

theorem n3_byte_of_mask {w p : Word} (h : w &&& 0xF0FF = p) :
    (splitWord w).n3 = (splitWord p).n3 ∧ (splitWord w).byte = (splitWord p).byte := by
  rw [← h, and_mask_n3_byte, splitWord_byte_n3, splitWord_byte_byte]
  exact ⟨rfl, rfl⟩

theorem n3_n0_of_mask {w p : Word} (h : w &&& 0xF00F = p) :
    (splitWord w).n3 = (splitWord p).n3 ∧ (splitWord w).n0 = (splitWord p).n0 := by
  rw [← h, and_mask_n3_n0, splitWord_nibbles_n3, splitWord_nibbles_n0]
  exact ⟨rfl, rfl⟩

/-- The word of an instruction matches its row. -/
theorem encodeWord_and_mask (i : Instr) : encodeWord i &&& (opcodeRow i).mask = (opcodeRow i).pattern := by
  cases i with
  | cls | ret => rfl
  | jpAddr | callAddr | ldIAddr | jpV0Addr | seVxByte | sneVxByte | ldVxByte | addVxByte | rndVxByte | drwVxVyN =>
    exact (and_mask_n3 _).trans (by simp [encodeWord, opcodeRow])
  | seVxVy | sneVxVy | ldVxVy | orVxVy | andVxVy | xorVxVy | addVxVy | subVxVy | shrVx | subnVxVy | shlVx =>
    exact (and_mask_n3_n0 _).trans (by simp [encodeWord, opcodeRow])
  | _ => exact (and_mask_n3_byte _).trans (by simp [encodeWord, opcodeRow])

/-- A word that matches a row decodes to an instruction of it: the row's mask fixes what the selection tests. -/
theorem decodeWord_of_and_mask {w : Word} {j : Instr} (h : w &&& (opcodeRow j).mask = (opcodeRow j).pattern) :
    ∃ i, decodeWord w = .instr i ∧ opcodeRow i = opcodeRow j := by
  cases j with
  | cls =>
    obtain rfl : w = 0x00E0 := BitVec.and_allOnes.symm.trans h
    exact ⟨.cls, rfl, rfl⟩
  | ret =>
    obtain rfl : w = 0x00EE := BitVec.and_allOnes.symm.trans h
    exact ⟨.ret, rfl, rfl⟩
  | jpAddr | callAddr | ldIAddr | jpV0Addr | seVxByte | sneVxByte | ldVxByte | addVxByte | rndVxByte | drwVxVyN =>
    simp [decodeWord, n3_of_mask_n3 h, splitWord_n3_toNat, opcodeRow]
  | seVxVy | sneVxVy | ldVxVy | orVxVy | andVxVy | xorVxVy | addVxVy | subVxVy | shrVx | subnVxVy | shlVx =>
    obtain ⟨h3, h0⟩ := n3_n0_of_mask h
    simp [decodeWord, decodeFamily8, h3, h0, BitVec.toNat_eq, splitWord_n3_toNat, splitWord_n0_toNat, opcodeRow]
  | _ =>
    obtain ⟨h3, hb⟩ := n3_byte_of_mask h
    simp [decodeWord, decodeFamilyE, decodeFamilyF, h3, hb, splitWord_n3_toNat, splitWord_byte_toNat, opcodeRow]

/-- Settles O4: the word of an instruction matches its row, and a match fixes every field the selection tests. -/
theorem opcodeMapSelects : Obligations.OpcodeMapSelects :=
  ⟨fun _ i h => encodeWord_of_decodeWord h ▸ encodeWord_and_mask i, fun _ _ => decodeWord_of_and_mask⟩

/-! ### The unrecognised words (30_encoding.md R80), family by family -/

theorem decodeFamily0_eq_unrecognised_iff (w : Word) :
    decodeFamily0 w = .unrecognised ↔ w.toNat ≠ 0x00E0 ∧ w.toNat ≠ 0x00EE := by
  unfold decodeFamily0
  split <;> simp_all

theorem decodeFamily8_eq_unrecognised_iff (w : Word) : decodeFamily8 (splitWord w) = .unrecognised ↔
    w.toNat % 16 ∈ [0x8, 0x9, 0xA, 0xB, 0xC, 0xD, 0xF] := by
  unfold decodeFamily8
  rw [splitWord_n0_toNat]
  split <;> simp_all
  omega

theorem decodeFamilyE_eq_unrecognised_iff (w : Word) : decodeFamilyE (splitWord w) = .unrecognised ↔
    w.toNat % 256 ∉ [0x9E, 0xA1] := by
  unfold decodeFamilyE
  rw [splitWord_byte_toNat]
  split <;> simp_all

theorem decodeFamilyF_eq_unrecognised_iff (w : Word) : decodeFamilyF (splitWord w) = .unrecognised ↔
    w.toNat % 256 ∉ [0x07, 0x0A, 0x15, 0x18, 0x1E, 0x29, 0x33, 0x55, 0x65] := by
  unfold decodeFamilyF
  rw [splitWord_byte_toNat]
  split <;> simp_all

theorem n0_eq_zero_iff (w : Word) : (splitWord w).n0 = 0#4 ↔ w.toNat % 16 = 0 := by
  rw [BitVec.toNat_eq, splitWord_n0_toNat]
  rfl

/-- Settles O5: N3 selects the family, and each family's own test leaves over the set the spec lists for it. -/
theorem unrecognisedWordsAreTheseSets : Obligations.UnrecognisedWordsAreTheseSets := by
  intro w
  have hn3 : w.toNat / 4096 < 16 := by
    have := w.isLt
    omega
  unfold decodeWord
  dsimp only
  rw [splitWord_n3_toNat]
  generalize w.toNat / 4096 = n3 at hn3 ⊢
  interval_cases n3 <;>
    simp [decodeFamily0_eq_unrecognised_iff, decodeFamily8_eq_unrecognised_iff, decodeFamilyE_eq_unrecognised_iff,
      decodeFamilyF_eq_unrecognised_iff, n0_eq_zero_iff]

end Sys2Proof.Machine.Proofs

/-! The execute phase as a function of the state (10_state.md R24, phase 3): every instruction answers a next state, and
the state it answers written out, for the instructions that can fault or that use a port once per end. -/

namespace Sys2Proof.Machine.Proofs

open Sys2Proof.Machine.Laws

/-- The state an execute phase answers. -/
def execState (i : Instr) (s : State) : State :=
  match exec i s with
  | .next t => t
  | .fault _ => s
  | .refused _ => s

/-- Every execute phase answers a next state. -/
theorem exec_eq (i : Instr) (s : State) : exec i s = .next (execState i s) := by
  cases i <;> rfl

theorem execState_of_exec {i : Instr} {s t : State} (h : exec i s = .next t) : execState i s = t :=
  Host.Outcome.next.inj ((exec_eq i s).symm.trans h)

/-! ### The stack (40_flow.md R100, R102) -/

theorem execState_ret_cases (s : State) :
    (s.sp.toNat ≠ 0 ∧ execState .ret s = (s.setSp (s.sp - 1)).setPc (s.readSlot (s.sp - 1))) ∨
    (s.sp.toNat = 0 ∧ execState .ret s = s.raise .addressOutOfBounds .stackPop 0) := by
  rcases pop_cases s with ⟨e, h⟩ | ⟨e, h⟩
  · exact .inl ⟨h, by simp only [execState, exec, execRet, e]⟩
  · exact .inr ⟨h, by simp only [execState, exec, execRet, e, h]⟩

theorem execState_callAddr_cases (a : Addr) (s : State) :
    (s.sp.toNat ≠ 15 ∧ execState (.callAddr a) s =
      ((s.writeSlot s.sp (s.pc + 2)).setSp (s.sp + 1)).setPc (addrWord a)) ∨
    (s.sp.toNat = 15 ∧ execState (.callAddr a) s = s.raise .addressOutOfBounds .stackPush 15) := by
  rcases push_cases s (s.pc + 2) with ⟨e, h⟩ | ⟨e, h⟩
  · exact .inl ⟨h, by simp only [execState, exec, execCallAddr, e]⟩
  · exact .inr ⟨h, by simp only [execState, exec, execCallAddr, e, h, stackUsable]⟩

/-! ### Memory (42_index_memory.md R143 to R145) -/

/-- What the two storing instructions come to: the bytes in Memory from I and PC advanced, or those below `MEM_SIZE` and
a fault at the first address that is not. -/
def StoreEnds (bs : List Byte) (s t : State) : Prop :=
  (s.effectiveAddr 0 + bs.length ≤ memSize ∧ t = (s.setMem (s.mem.copyIn (s.effectiveAddr 0) bs)).advance) ∨
  (memSize < s.effectiveAddr 0 + bs.length ∧
    t = (s.setMem (s.mem.copyIn (s.effectiveAddr 0) (bs.take (memSize - s.effectiveAddr 0)))).raise
      .addressOutOfBounds .memWrite (max (s.effectiveAddr 0) memSize))

theorem execState_ldBVx_ends (x : Reg) (s : State) :
    StoreEnds (decimalDigits (s.readV x)) s (execState (.ldBVx x) s) := by
  rcases storeBytes_both s (s.effectiveAddr 0) (decimalDigits (s.readV x)) with ⟨e, h⟩ | ⟨e, h⟩
  · exact .inl ⟨h.resolve_left (by simp [decimalDigits]), by simp only [execState, exec, execLdBVx, e]⟩
  · exact .inr ⟨h, by simp only [execState, exec, execLdBVx, e]⟩

theorem regsUpTo_length (s : State) (x : Reg) : (s.regsUpTo x).length = x.toNat + 1 := by
  simp [State.regsUpTo]

theorem execState_ldMemVx_ends (x : Reg) (s : State) : StoreEnds (s.regsUpTo x) s (execState (.ldMemVx x) s) := by
  have hne : s.regsUpTo x ≠ [] := List.ne_nil_of_length_eq_add_one (regsUpTo_length s x)
  rcases storeBytes_both s (s.effectiveAddr 0) (s.regsUpTo x) with ⟨e, h⟩ | ⟨e, h⟩
  · exact .inl ⟨h.resolve_left hne, by simp only [execState, exec, execLdMemVx, e]⟩
  · exact .inr ⟨h, by simp only [execState, exec, execLdMemVx, e]⟩

/-- What LD Vx,[I] comes to: the registers loaded whose byte lies in Memory, and either all of them and PC advanced, or
a fault at the first address beyond. -/
theorem execState_ldVxMem_cases (x : Reg) (s : State) : ∃ u : State, u = { s with v := u.v } ∧
    (∀ r : Reg, u.readV r = if r.toNat ≤ x.toNat ∧ s.effectiveAddr r.toNat < memSize
      then s.byteAt (s.effectiveAddr r.toNat) else s.readV r) ∧
    ((s.effectiveAddr x.toNat < memSize ∧ execState (.ldVxMem x) s = u.advance) ∨
      (memSize ≤ s.effectiveAddr x.toNat ∧
        execState (.ldVxMem x) s = u.raise .addressOutOfBounds .memRead (max (s.effectiveAddr 0) memSize))) := by
  have hx := x.isLt
  have hea : ∀ k, s.effectiveAddr 0 + k = s.effectiveAddr k := fun _ => rfl
  by_cases hm : s.effectiveAddr x.toNat < memSize
  · obtain ⟨u, e, hu, hr⟩ := loadRegs_ok s (a := s.effectiveAddr 0) (n := x.toNat + 1) (by omega)
      (.inr (by rw [← hea] at hm; omega))
    refine ⟨u, hu, fun r => ?_, .inl ⟨hm, by simp only [execState, exec, execLdVxMem, e]⟩⟩
    rw [hr, hea]
    refine if_congr ?_ rfl rfl
    simp only [State.effectiveAddr] at *
    omega
  · obtain ⟨u, hu, e, hr⟩ := loadRegs_error s (a := s.effectiveAddr 0) (n := x.toNat + 1) (by omega) (by omega)
      (by rw [← hea] at hm; omega)
    refine ⟨u, hu, fun r => ?_, .inr ⟨by omega, by simp only [execState, exec, execLdVxMem, e]⟩⟩
    rw [hr, hea]
    refine if_congr ?_ rfl rfl
    omega

/-! ### Ports (44_io.md R161 to R165) -/

/-- What DRW comes to: the rows that lie in Memory drawn, and either all of them, VF written and PC advanced, or a fault
at the first address beyond. -/
theorem execState_drwVxVyN_cases (x y : Reg) (n : Nibble) (s : State) : ∃ cs q,
    q.trace = s.ports.trace ++ rowCalls s (s.effectiveAddr 0) (s.readV x) (s.readV y) cs ∧
    q.keys = s.ports.keys ∧ q.polls = s.ports.polls ∧ q.randoms = s.ports.randoms ∧
    (s.ports.screen = none → q.screen = none) ∧
    (∀ k (h : k < cs.length), s.byteAt (s.effectiveAddr k) = 0 → cs[k] = false) ∧
    (((n = 0 ∨ s.effectiveAddr n.toNat ≤ memSize) ∧ cs.length = n.toNat ∧
      execState (.drwVxVyN x y n) s = ((s.setPorts q).writeV vf (flagByte (cs.any id))).advance) ∨
    ((n ≠ 0 ∧ memSize < s.effectiveAddr n.toNat) ∧ cs.length = memSize - s.effectiveAddr 0 ∧
      execState (.drwVxVyN x y n) s =
        (s.setPorts q).raise .addressOutOfBounds .memRead (max (s.effectiveAddr 0) memSize))) := by
  have hn : n = 0 ↔ n.toNat = 0 := BitVec.toNat_eq
  by_cases hm : n = 0 ∨ s.effectiveAddr n.toNat ≤ memSize
  · obtain ⟨cs, q, e, hl, ht, hk, hp, hr, hs, hz⟩ :=
      drawRows_ok s (a := s.effectiveAddr 0) (s.readV x) (s.readV y) (hm.imp_left hn.mp)
    exact ⟨cs, q, ht, hk, hp, hr, hs, hz, .inl ⟨hm, hl, by simp only [execState, exec, execDrwVxVyN, e]⟩⟩
  · obtain ⟨h0, hm⟩ := not_or.mp hm
    obtain ⟨cs, q, e, hl, ht, hk, hp, hr, hs, hz⟩ :=
      drawRows_error s (a := s.effectiveAddr 0) (s.readV x) (s.readV y) (h0 ∘ hn.mpr) (Nat.lt_of_not_le hm)
    exact ⟨cs, q, ht, hk, hp, hr, hs, hz,
      .inr ⟨⟨h0, Nat.lt_of_not_le hm⟩, hl, by simp only [execState, exec, execDrwVxVyN, e]⟩⟩

theorem execState_rndVxByte {s : State} {r : Byte} {q : Ports} (h : s.randomByte = (r, s.setPorts q)) (x : Reg)
    (b : Byte) : execState (.rndVxByte x b) s = ((s.setPorts q).writeV x (b &&& r)).advance := by
  simp only [execState, exec, execRndVxByte, h]

theorem execState_skpVx {s : State} {x : Reg} {d : Bool} {q : Ports}
    (h : s.isKeyDown (s.readV x) = (d, s.setPorts q)) : execState (.skpVx x) s = (s.setPorts q).skipIf d := by
  simp only [execState, exec, execSkpVx, h]

theorem execState_sknpVx {s : State} {x : Reg} {d : Bool} {q : Ports}
    (h : s.isKeyDown (s.readV x) = (d, s.setPorts q)) : execState (.sknpVx x) s = (s.setPorts q).skipIf (!d) := by
  simp only [execState, exec, execSknpVx, h]

theorem execState_ldVxK {s : State} {a : Option Nibble} {q : Ports} (h : s.pollKey = (a, s.setPorts q)) (x : Reg) :
    execState (.ldVxK x) s = (s.setPorts q).takeKey x a := by
  simp only [execState, exec, execLdVxK, h]

/-- Taking the answer of a poll calls no port. -/
theorem takeKey_ports (s : State) (x : Reg) (a : Option Nibble) : (s.takeKey x a).ports = s.ports := by
  cases a <;> rfl

theorem takeKey_pc (s : State) (x : Reg) (a : Option Nibble) :
    (s.takeKey x a).pc = if a = none then s.pc else s.pc + 2 := by
  cases a <;> rfl

/-- The key taken is the value of Vx: a nibble is not cut by the zero-extension to a byte. -/
theorem takeKey_some_readV_toNat (s : State) (x : Reg) (k : Nibble) :
    ((s.takeKey x (some k)).readV x).toNat = k.toNat := by
  have hread : (s.takeKey x (some k)).readV x = k.setWidth 8 := readV_writeV_same s x _
  have := k.isLt
  rw [hread, BitVec.toNat_setWidth]
  omega

theorem takeKey_some_readV_other (s : State) {x r : Reg} (k : Nibble) (h : r ≠ x) :
    (s.takeKey x (some k)).readV r = s.readV r :=
  readV_writeV_other s _ h

end Sys2Proof.Machine.Proofs

/-! The write columns of the access matrix (10_state.md R22) as one relation between the states before and after an
execute phase. Each named update keeps it for the instructions whose row allows that update, so that an execute phase
obeys its row update by update. -/

namespace Sys2Proof.Machine.Proofs

open Sys2Proof.Machine.Laws

/-- What differs between `s` and `t` is in the row of `i`. -/
structure ObeysRow (i : Instr) (s t : State) : Prop where
  regs : SameRegsBut (writtenRegs i) s t
  mem : ∃ bs, bs.length ≤ bytesStored i ∧ (bs = [] ∨ s.effectiveAddr 0 + bs.length ≤ memSize) ∧
    t.mem = s.mem.copyIn (s.effectiveAddr 0) bs
  sp : usesStack i = false → t.sp = s.sp
  slots : ∀ k, (∀ a, i ≠ .callAddr a) ∨ k ≠ s.sp → t.readSlot k = s.readSlot k
  index : writesI i = false → t.i = s.i
  dt : (∀ x, i ≠ .ldDtVx x) → t.dt = s.dt
  st : (∀ x, i ≠ .ldStVx x) → t.st = s.st
  tickcnt : t.tickcnt = s.tickcnt
  pulse : t.unrecognised = s.unrecognised
  latches : canFault i = false → t.fault = s.fault ∧ t.faultInfo = s.faultInfo
  run : canFault i = false → (∀ x, i ≠ .ldVxK x) → t.run = s.run
  ports : usesPort i = false → SamePorts s t
  keys : SameKeys s t
  screen : usesDisplay i = false → SameScreen s t
  polls : (∀ x, i ≠ .ldVxK x) → SamePolls s t
  randoms : (∀ x b, i ≠ .rndVxByte x b) → SameRandoms s t
  calls : ∃ calls, t.ports.trace = s.ports.trace ++ calls ∧ ∀ c ∈ calls, makesCall i c = true

namespace ObeysRow

theorem refl (i : Instr) (s : State) : ObeysRow i s s where
  regs _ _ := rfl
  mem := ⟨[], Nat.zero_le _, .inl rfl, rfl⟩
  sp _ := rfl
  slots _ _ := rfl
  index _ := rfl
  dt _ := rfl
  st _ := rfl
  tickcnt := rfl
  pulse := rfl
  latches _ := ⟨rfl, rfl⟩
  run _ _ := rfl
  ports _ := rfl
  keys := rfl
  screen _ := rfl
  polls _ := rfl
  randoms _ := rfl
  calls := ⟨[], (List.append_nil _).symm, by simp⟩

variable {i : Instr} {s t : State}

theorem setPc (h : ObeysRow i s t) (w : Word) : ObeysRow i s (t.setPc w) := { h with }

theorem advance (h : ObeysRow i s t) : ObeysRow i s t.advance := h.setPc _

theorem skipIf (h : ObeysRow i s t) (c : Bool) : ObeysRow i s (t.skipIf c) := h.setPc _

theorem writeV (h : ObeysRow i s t) {x : Reg} (b : Byte) (hx : x ∈ writtenRegs i) : ObeysRow i s (t.writeV x b) :=
  { h with
    regs := fun r hr => (readV_writeV_other t b (ne_of_mem_of_not_mem hx hr).symm).trans (h.regs r hr) }

/-- The registers may have been written all at once, as the load does. -/
theorem setRegs (h : ObeysRow i s t) {u : State} (hu : u = { t with v := u.v }) (hr : SameRegsBut (writtenRegs i) s u) :
    ObeysRow i s u := by
  rw [hu] at hr ⊢
  exact { h with regs := hr }

theorem setI (h : ObeysRow i s t) (w : Word) (hi : writesI i = true) : ObeysRow i s (t.setI w) :=
  { h with index := fun hf => absurd (hi.symm.trans hf) (by decide) }

theorem setDt (h : ObeysRow i s t) {x : Reg} (b : Byte) (hi : i = .ldDtVx x) : ObeysRow i s (t.setDt b) :=
  { h with dt := fun hf => absurd hi (hf x) }

theorem setSp (h : ObeysRow i s t) (p : BitVec 4) (hi : usesStack i = true) : ObeysRow i s (t.setSp p) :=
  { h with sp := fun hf => absurd (hi.symm.trans hf) (by decide) }

theorem writeSlot (h : ObeysRow i s t) {a : Addr} (w : Word) (hi : i = .callAddr a) :
    ObeysRow i s (t.writeSlot s.sp w) :=
  { h with
    slots := fun k hk => by
      have hne : k ≠ s.sp := hk.resolve_left fun hf => hf a hi
      exact (readSlot_writeSlot_other t w hne).trans (h.slots k hk) }

theorem setMem (h : ObeysRow i s t) {bs : List Byte} (hl : bs.length ≤ bytesStored i)
    (hb : bs = [] ∨ s.effectiveAddr 0 + bs.length ≤ memSize) :
    ObeysRow i s (t.setMem (s.mem.copyIn (s.effectiveAddr 0) bs)) :=
  { h with mem := ⟨bs, hl, hb, rfl⟩ }

theorem raise (h : ObeysRow i s t) (c : Cause) (k : AccessKind) (a : Nat) (hi : canFault i = true) :
    ObeysRow i s (t.raise c k a) :=
  { h with
    latches := fun hf => absurd (hi.symm.trans hf) (by decide)
    run := fun hf => absurd (hi.symm.trans hf) (by decide) }

theorem setRun (h : ObeysRow i s t) {x : Reg} (r : Run) (hi : i = .ldVxK x) : ObeysRow i s (t.setRun r) :=
  { h with run := fun _ hf => absurd hi (hf x) }

/-- The one port an instruction uses is called first, from the state before: its calls are recorded, and the answers of
the ports it does not use stay. -/
theorem setPorts {q : Ports} {calls : List PortCall} (ht : q.trace = s.ports.trace ++ calls)
    (hc : ∀ c ∈ calls, makesCall i c = true) (hu : usesPort i = true) (hk : q.keys = s.ports.keys)
    (hs : usesDisplay i = false → q.screen = s.ports.screen)
    (hp : (∀ x, i ≠ .ldVxK x) → q.polls = s.ports.polls)
    (hr : (∀ x b, i ≠ .rndVxByte x b) → q.randoms = s.ports.randoms) : ObeysRow i s (s.setPorts q) :=
  { refl i s with
    ports := fun hf => absurd (hu.symm.trans hf) (by decide)
    keys := hk, screen := hs, polls := hp, randoms := hr, calls := ⟨calls, ht, hc⟩ }

/-- A key test uses no answer up, of any port. -/
theorem isKeyDown {k : Byte} (hc : ∀ d, makesCall i (.isKeyDown k d) = true) (hu : usesPort i = true) :
    ObeysRow i s (s.isKeyDown k).2 := by
  obtain ⟨d, q, e, ht, hs, hk, hp, hr, -⟩ := isKeyDown_spec s k
  rw [e]
  exact setPorts ht (by simp [hc d]) hu hk (fun _ => hs) (fun _ => hp) fun _ => hr

theorem setST (s : State) (x : Reg) (b : Byte) : ObeysRow (.ldStVx x) s (s.setST b) :=
  { refl (.ldStVx x) s with
    st := fun hf => absurd rfl (hf x)
    ports := fun hf => absurd hf (by simp [usesPort])
    calls := ⟨audioEdge s.st b, rfl, by unfold audioEdge; split_ifs <;> simp [makesCall]⟩ }

/-- An ALU instruction writes its destination, and VF if its function computes a flag (10_state.md R14). -/
theorem aluStep {fn : AluFn} {x : Reg} {b : Byte} (hx : x ∈ writtenRegs i)
    (hvf : (alu fn (s.readV x) b).2 = none ∨ vf ∈ writtenRegs i) : ObeysRow i s (s.aluStep fn x b) := by
  unfold State.aluStep
  generalize alu fn (s.readV x) b = r at hvf
  rcases r with ⟨r, _ | f⟩
  · exact ((refl i s).writeV r hx).advance
  · exact (((refl i s).writeV r hx).writeV _ (hvf.resolve_left (by simp))).advance

theorem storeEnds {bs : List Byte} (h : StoreEnds bs s t) (hl : bs.length = bytesStored i) (hf : canFault i = true) :
    ObeysRow i s t := by
  rcases h with ⟨hm, rfl⟩ | ⟨-, rfl⟩
  · exact ((refl i s).setMem hl.le (.inr hm)).advance
  · refine ((refl i s).setMem ((List.length_take_le' _ _).trans hl.le) ?_).raise _ _ _ hf
    rw [List.length_take, List.take_eq_nil_iff]
    omega

theorem takeKey {x : Reg} (h : ObeysRow (.ldVxK x) s t) (a : Option Nibble) :
    ObeysRow (.ldVxK x) s (t.takeKey x a) := by
  cases a with
  | none => exact h.setRun _ rfl
  | some k => exact ((h.writeV _ (by simp [writtenRegs])).setRun _ rfl).advance

end ObeysRow

/-- A register LD Vx,[I] does not write is above Vx. -/
theorem lt_of_not_mem_writtenRegs {x r : Reg} (h : r ∉ writtenRegs (.ldVxMem x)) : x.toNat < r.toNat := by
  simp only [writtenRegs, List.mem_map, List.mem_range, not_exists, not_and] at h
  by_contra hle
  exact h r.toNat (by omega) (BitVec.ofNat_toNat .. |>.trans (BitVec.setWidth_eq r))

theorem makesCall_of_mem_rowCalls {s : State} {a : Nat} {cx cy : Byte} {cs : List Bool} {x y : Reg} {n : Nibble} :
    ∀ c ∈ rowCalls s a cx cy cs, makesCall (.drwVxVyN x y n) c = true := by
  intro c hc
  obtain ⟨p, -, rfl⟩ := List.mem_map.mp hc
  rfl

theorem execState_obeysRow (i : Instr) (s : State) : ObeysRow i s (execState i s) := by
  have h := ObeysRow.refl i s
  cases i with
  | jpAddr | jpV0Addr => exact h.setPc _
  | seVxByte | sneVxByte | seVxVy | sneVxVy => exact h.skipIf _
  | ldVxByte | addVxByte | ldVxVy | orVxVy | andVxVy | xorVxVy =>
    exact .aluStep (List.mem_singleton_self _) (.inl rfl)
  | addVxVy | subVxVy | subnVxVy | shrVx | shlVx =>
    exact .aluStep (by simp [writtenRegs]) (.inr (by simp [writtenRegs]))
  | ldIAddr | addIVx | ldFVx => exact (h.setI _ rfl).advance
  | ldVxDt => exact (h.writeV _ (List.mem_singleton_self _)).advance
  | ldDtVx => exact (h.setDt _ rfl).advance
  | ldStVx x => exact (ObeysRow.setST s x _).advance
  | ret =>
    rcases execState_ret_cases s with ⟨-, e⟩ | ⟨-, e⟩ <;> rw [e]
    · exact (h.setSp _ rfl).setPc _
    · exact h.raise _ _ _ rfl
  | callAddr a =>
    rcases execState_callAddr_cases a s with ⟨-, e⟩ | ⟨-, e⟩ <;> rw [e]
    · exact ((h.writeSlot _ rfl).setSp _ rfl).setPc _
    · exact h.raise _ _ _ rfl
  | ldBVx x => exact .storeEnds (execState_ldBVx_ends x s) rfl rfl
  | ldMemVx x => exact .storeEnds (execState_ldMemVx_ends x s) (regsUpTo_length s x) rfl
  | ldVxMem x =>
    obtain ⟨u, hu, hr, hend⟩ := execState_ldVxMem_cases x s
    have hrow : ObeysRow (.ldVxMem x) s u := h.setRegs hu fun r hmem => by
      have := lt_of_not_mem_writtenRegs hmem
      rw [hr, if_neg (by omega)]
    rcases hend with ⟨-, e⟩ | ⟨-, e⟩ <;> rw [e]
    · exact hrow.advance
    · exact hrow.raise _ _ _ rfl
  | cls =>
    have hrow : ObeysRow .cls s s.displayClear :=
      .setPorts (displayClear_trace s) (by simp [makesCall]) rfl rfl nofun (fun _ => rfl) fun _ => rfl
    exact hrow.advance
  | drwVxVyN x y n =>
    obtain ⟨cs, q, ht, hk, hp, hr, -, -, hend⟩ := execState_drwVxVyN_cases x y n s
    have hrow : ObeysRow (.drwVxVyN x y n) s (s.setPorts q) :=
      .setPorts ht makesCall_of_mem_rowCalls rfl hk nofun (fun _ => hp) fun _ => hr
    rcases hend with ⟨-, -, e⟩ | ⟨-, -, e⟩ <;> rw [e]
    · exact (hrow.writeV _ (List.mem_singleton_self _)).advance
    · exact hrow.raise _ _ _ rfl
  | rndVxByte x b =>
    obtain ⟨r, q, e, ht, hs, hk, hp, -⟩ := randomByte_spec s
    have hrow : ObeysRow (.rndVxByte x b) s (s.setPorts q) :=
      .setPorts ht (by simp [makesCall]) rfl hk (fun _ => hs) (fun _ => hp) fun hf => absurd rfl (hf x b)
    rw [execState_rndVxByte e]
    exact (hrow.writeV _ (List.mem_singleton_self _)).advance
  | skpVx | sknpVx => exact (ObeysRow.isKeyDown (fun _ => rfl) rfl).skipIf _
  | ldVxK x =>
    obtain ⟨a, q, e, ht, hs, hk, -, hr, -⟩ := pollKey_spec s
    rw [execState_ldVxK e]
    exact (ObeysRow.setPorts ht (by simp [makesCall]) rfl hk (fun _ => hs) (fun hf => absurd rfl (hf x))
      fun _ => hr).takeKey a

/-- Every byte outside what the row stores reads as before. -/
theorem ObeysRow.sameMemOutside {i : Instr} {s t : State} (h : ObeysRow i s t) :
    SameMemOutside (s.effectiveAddr 0) (bytesStored i) s t := by
  obtain ⟨bs, hl, -, hm⟩ := h.mem
  intro a ha
  rw [State.byteAt, hm]
  exact read_copyIn_outside s.mem (by omega)

/-- Settles O27: each update an execute phase is made of is one its row allows. -/
theorem execWritesOnlyItsRow : Obligations.ExecWritesOnlyItsRow := by
  intro i s t h
  have hrow := execState_of_exec h ▸ execState_obeysRow i s
  exact ⟨hrow.regs, hrow.sameMemOutside, hrow.sp, hrow.slots, hrow.index, hrow.dt, hrow.st, hrow.tickcnt, hrow.pulse,
    hrow.latches, hrow.run, hrow.ports, hrow.keys, hrow.screen, hrow.polls, hrow.randoms, hrow.calls⟩

end Sys2Proof.Machine.Proofs

/-! The two ends of an execute phase (60_exceptions.md R171 to R176): it ran to its end and left the latches alone, or a
fault ended it and PC, the stack and the latches are as `raise` leaves them. -/

namespace Sys2Proof.Machine.Proofs

open Sys2Proof.Machine.Laws

/-- The execute phase ran to its end: no cause is latched by it, and `RUN` is as before but for LD Vx,K, which completes
or waits where it stands. -/
structure RanToEnd (i : Instr) (s t : State) : Prop where
  latches : t.fault = s.fault ∧ t.faultInfo = s.faultInfo
  run : t.run = s.run ∨ ∃ x, i = .ldVxK x ∧ (t.run = .running ∨ t.run = .awaitingKey ∧ t.pc = s.pc)

/-- A fault ended the execute phase. -/
structure EndedByFault (i : Instr) (s t : State) : Prop where
  canFault : canFault i = true
  run : t.run = .halted
  cause : t.fault = .addressOutOfBounds
  infoPc : t.faultInfo.pc = s.pc
  detail : outOfBoundsDetail t
  pc : t.pc = s.pc
  stack : t.sp = s.sp ∧ t.stack = s.stack

/-- An instruction that cannot fault runs to its end. -/
theorem ranToEnd_of_not_canFault {i : Instr} (s : State) (h : canFault i = false) : RanToEnd i s (execState i s) := by
  have hrow := execState_obeysRow i s
  refine ⟨hrow.latches h, ?_⟩
  by_cases hk : ∃ x, i = .ldVxK x
  · obtain ⟨x, rfl⟩ := hk
    obtain ⟨a, q, e, -⟩ := pollKey_spec s
    refine .inr ⟨x, rfl, ?_⟩
    rw [execState_ldVxK e]
    cases a with
    | none => exact .inr ⟨rfl, rfl⟩
    | some k => exact .inl rfl
  · exact .inl (hrow.run h (not_exists.mp hk))

/-- The address a Memory access faults at is small enough to be latched whole. -/
theorem max_effectiveAddr_lt (s : State) : max (s.effectiveAddr 0) memSize < 2 ^ 17 := by
  have := s.i.isLt
  simp only [State.effectiveAddr, memSize]
  omega

/-- What `raise` leaves of a Memory access beyond Memory. -/
theorem endedByFault_memory {i : Instr} {s u : State} {k : AccessKind} (hi : canFault i = true) (hpc : u.pc = s.pc)
    (hst : u.sp = s.sp ∧ u.stack = s.stack) (hk : k = .memRead ∨ k = .memWrite) :
    EndedByFault i s (u.raise .addressOutOfBounds k (max (s.effectiveAddr 0) memSize)) := by
  have haddr : memSize ≤ (BitVec.ofNat 17 (max (s.effectiveAddr 0) memSize)).toNat := by
    rw [BitVec.toNat_ofNat, Nat.mod_eq_of_lt (max_effectiveAddr_lt s)]
    exact Nat.le_max_right _ _
  refine ⟨hi, rfl, rfl, hpc, ?_, hpc, hst⟩
  rcases hk with rfl | rfl <;> exact haddr

theorem storeEnds_ranToEnd_or_endedByFault {i : Instr} {s t : State} {bs : List Byte} (h : StoreEnds bs s t)
    (hi : canFault i = true) : RanToEnd i s t ∨ EndedByFault i s t := by
  rcases h with ⟨-, rfl⟩ | ⟨-, rfl⟩
  · exact .inl ⟨⟨rfl, rfl⟩, .inl rfl⟩
  · exact .inr (endedByFault_memory hi rfl ⟨rfl, rfl⟩ (.inr rfl))

/-- Every execute phase has one of the two ends. -/
theorem execState_ends (i : Instr) (s : State) :
    RanToEnd i s (execState i s) ∨ EndedByFault i s (execState i s) := by
  by_cases hf : canFault i = false
  · exact .inl (ranToEnd_of_not_canFault s hf)
  cases i with
  | ret =>
    rcases execState_ret_cases s with ⟨-, e⟩ | ⟨hsp, e⟩ <;> rw [e]
    · exact .inl ⟨⟨rfl, rfl⟩, .inl rfl⟩
    · exact .inr ⟨rfl, rfl, rfl, rfl, ⟨BitVec.eq_of_toNat_eq hsp, rfl⟩, rfl, rfl, rfl⟩
  | callAddr a =>
    rcases execState_callAddr_cases a s with ⟨-, e⟩ | ⟨hsp, e⟩ <;> rw [e]
    · exact .inl ⟨⟨rfl, rfl⟩, .inl rfl⟩
    · exact .inr ⟨rfl, rfl, rfl, rfl, ⟨BitVec.eq_of_toNat_eq hsp, rfl⟩, rfl, rfl, rfl⟩
  | ldBVx x => exact storeEnds_ranToEnd_or_endedByFault (execState_ldBVx_ends x s) rfl
  | ldMemVx x => exact storeEnds_ranToEnd_or_endedByFault (execState_ldMemVx_ends x s) rfl
  | ldVxMem x =>
    obtain ⟨u, hu, -, ⟨-, e⟩ | ⟨-, e⟩⟩ := execState_ldVxMem_cases x s <;> rw [e, hu]
    · exact .inl ⟨⟨rfl, rfl⟩, .inl rfl⟩
    · exact .inr (endedByFault_memory rfl rfl ⟨rfl, rfl⟩ (.inl rfl))
  | drwVxVyN x y n =>
    obtain ⟨cs, q, -, -, -, -, -, -, ⟨-, -, e⟩ | ⟨-, -, e⟩⟩ := execState_drwVxVyN_cases x y n s <;> rw [e]
    · exact .inl ⟨⟨rfl, rfl⟩, .inl rfl⟩
    · exact .inr (endedByFault_memory rfl rfl ⟨rfl, rfl⟩ (.inl rfl))
  | _ => exact absurd rfl hf

theorem RanToEnd.not_halted {i : Instr} {s t : State} (h : RanToEnd i s t) (hs : s.run ≠ .halted) :
    t.run ≠ .halted := by
  rcases h.run with e | ⟨-, -, e | ⟨e, -⟩⟩ <;> rw [e]
  · exact hs
  all_goals exact nofun

/-- From a state that is not halted, an execute phase halts exactly when a fault ended it. -/
theorem endedByFault_of_halted {i : Instr} {s t : State} (h : exec i s = .next t) (hs : s.run ≠ .halted)
    (ht : t.run = .halted) : EndedByFault i s t := by
  rw [← execState_of_exec h] at ht ⊢
  exact (execState_ends i s).resolve_left fun hend => hend.not_halted hs ht

/-- Settles O18: an instruction off the list runs to its end, and that end is not `Halted`. -/
theorem onlySixInstructionsFault : Obligations.OnlySixInstructionsFault :=
  fun _ _ _ hs h ht => (endedByFault_of_halted h hs ht).canFault

/-! ### What the faulting instructions never write (10_state.md R22) -/

theorem row_of_canFault {i : Instr} (h : canFault i = true) :
    writesI i = false ∧ (∀ x, i ≠ .ldDtVx x) ∧ (∀ x, i ≠ .ldStVx x) := by
  cases i with
  | ldIAddr | addIVx | ldFVx | ldDtVx | ldStVx => cases h
  | _ => exact ⟨rfl, fun _ => nofun, fun _ => nofun⟩

/-- Only LD ST,Vx calls the Audio port. -/
theorem makesCall_audio {i : Instr} (h : ∀ x, i ≠ .ldStVx x) :
    makesCall i .startTone = false ∧ makesCall i .stopTone = false := by
  cases i with
  | ldStVx x => exact absurd rfl (h x)
  | _ => exact ⟨rfl, rfl⟩

end Sys2Proof.Machine.Proofs

/-! The invariant (Safety.lean) kept by each phase of a cycle: its beginning, an execute phase, the unrecognised word, a
fetch outside the window, and the tick; and the step put together from them (10_state.md R24). -/

namespace Sys2Proof.Machine.Proofs

open Sys2Proof.Machine.Laws

/-! ### A step by its cases -/

/-- A cycle that did not complete does not tick (60_exceptions.md R185). -/
theorem endCycle_of_not_running {s : State} (h : s.run ≠ .running) : s.endCycle = s := if_neg h

theorem endCycle_of_running {s : State} (h : s.run = .running) : s.endCycle = s.tick := if_pos h

@[simp] theorem endCycle_run (s : State) : s.endCycle.run = s.run := by
  unfold State.endCycle
  split <;> simp

/-- A recognised word in the window, with the state its execute phase answers. -/
theorem step_execState {s : State} {i : Instr} (h : s.run ≠ .halted) (hw : s.inWindow = true)
    (hd : decodeWord s.fetchWord = .instr i) : step s = .next (execState i s.beginCycle).endCycle := by
  rw [step_instr h hw hd, exec_eq, closeCycle]

/-- Everything a step can do, the state it answers written out. -/
theorem step_eq_next_cases {s t : State} (h : step s = .next t) :
    (s.run = .halted ∧ t = s) ∨
    (s.run ≠ .halted ∧ s.inWindow = false ∧
      t = s.beginCycle.raise .programCounterOutOfProgramRegion .none s.pc.toNat) ∨
    (s.run ≠ .halted ∧ s.inWindow = true ∧ ∃ i, decodeWord s.fetchWord = .instr i ∧
      t = (execState i s.beginCycle).endCycle) ∨
    (s.run ≠ .halted ∧ s.inWindow = true ∧ t = s.beginCycle.unrecognisedWord.endCycle) := by
  rcases step_cases s with ⟨hr, e⟩ | ⟨hr, hw, e⟩ | ⟨hr, hw, i, hd, -⟩ | ⟨hr, hw, -, e⟩
  · exact .inl ⟨hr, Host.Outcome.next.inj (h.symm.trans e)⟩
  · exact .inr (.inl ⟨hr, hw, Host.Outcome.next.inj (h.symm.trans e)⟩)
  · exact .inr (.inr (.inl ⟨hr, hw, i, hd, Host.Outcome.next.inj (h.symm.trans (step_execState hr hw hd))⟩))
  · exact .inr (.inr (.inr ⟨hr, hw, Host.Outcome.next.inj (h.symm.trans e)⟩))

/-- Settles O19: a halted machine, a fetch outside the window, a recognised word and an unrecognised one all step. -/
theorem stepAlwaysAnswersNext : Obligations.StepAlwaysAnswersNext := by
  intro s
  rcases step_cases s with ⟨-, e⟩ | ⟨-, -, e⟩ | ⟨hr, hw, i, hd, -⟩ | ⟨-, -, -, e⟩
  · exact ⟨_, e⟩
  · exact ⟨_, e⟩
  · exact ⟨_, step_execState hr hw hd⟩
  · exact ⟨_, e⟩

/-- But for LD ST,Vx the calls an execute phase makes hold no audio event. -/
theorem ObeysRow.silent {i : Instr} {s t : State} (h : ObeysRow i s t) (hi : ∀ x, i ≠ .ldStVx x) :
    ∃ calls, t.ports.trace = s.ports.trace ++ calls ∧ PortCall.startTone ∉ calls ∧ PortCall.stopTone ∉ calls := by
  obtain ⟨calls, htrace, hcalls⟩ := h.calls
  obtain ⟨hstart, hstop⟩ := makesCall_audio hi
  exact ⟨calls, htrace, fun hm => Bool.noConfusion (hstart.symm.trans (hcalls _ hm)),
    fun hm => Bool.noConfusion (hstop.symm.trans (hcalls _ hm))⟩

/-- Settles O17: a step is ended by a fault at the fetch, which only raises, or by one in the execute phase, whose row
holds neither a timer nor I nor the Audio port. -/
theorem faultedStepFreezes : Obligations.FaultedStepFreezes := by
  intro s t hs h ht
  rcases step_eq_next_cases h with ⟨hr, -⟩ | ⟨-, -, rfl⟩ | ⟨-, -, i, -, rfl⟩ | ⟨-, -, rfl⟩
  · exact absurd hr hs
  · exact ⟨rfl, ⟨rfl, rfl, rfl⟩, ⟨rfl, fun _ => rfl⟩, rfl, nofun, rfl, [], (List.append_nil _).symm, by simp, by simp⟩
  · rw [endCycle_run] at ht
    rw [endCycle_of_not_running (by rw [ht]; exact nofun)]
    have hend := endedByFault_of_halted (exec_eq i s.beginCycle) (by simp) ht
    have hrow := execState_obeysRow i s.beginCycle
    obtain ⟨hi, hdt, hst⟩ := row_of_canFault hend.canFault
    obtain ⟨hsp, hstack⟩ := hend.stack
    refine ⟨hend.pc, ⟨hrow.dt hdt, hrow.st hst, hrow.tickcnt⟩, ⟨hsp, fun k => ?_⟩, hrow.index hi, ?_, hend.infoPc,
      hrow.silent hst⟩
    · simp only [State.readSlot, hstack, beginCycle_stack]
    · rw [hend.cause]
      exact nofun
  · rw [endCycle_run] at ht
    cases ht

/-! ### The parts of the invariant an execute phase keeps -/

theorem execState_mem_wf (i : Instr) {s : State} (h : s.mem.wf = true) : (execState i s).mem.wf = true := by
  obtain ⟨bs, -, hb, hm⟩ := (execState_obeysRow i s).mem
  rw [hm]
  rcases hb with rfl | hb
  · exact h
  · exact copyIn_wf h hb

/-- Calls of no Audio port leave the tone as it was. -/
theorem foldl_toneAfter_of_silent {calls : List PortCall} (h : PortCall.startTone ∉ calls ∧ PortCall.stopTone ∉ calls)
    (tone : Option Bool) : calls.foldl toneAfter tone = tone := by
  induction calls generalizing tone with
  | nil => rfl
  | cons c calls ih =>
    simp only [List.mem_cons, not_or] at h
    obtain ⟨⟨hstart, hrest⟩, hstop, hrest'⟩ := h
    have hc : toneAfter tone c = tone := by
      cases c with
      | startTone => exact absurd rfl hstart
      | stopTone => exact absurd rfl hstop
      | _ => rcases tone with _ | _ | _ <;> rfl
    rw [List.foldl_cons, hc, ih ⟨hrest, hrest'⟩]

theorem execState_tone (i : Instr) {s : State} (h : toneOf s.ports.trace = some (s.st != 0)) :
    toneOf (execState i s).ports.trace = some ((execState i s).st != 0) := by
  by_cases hi : ∃ x, i = .ldStVx x
  · obtain ⟨x, rfl⟩ := hi
    exact setST_tone s (s.readV x) h
  · have hst : ∀ x, i ≠ .ldStVx x := not_exists.mp hi
    have hrow := execState_obeysRow i s
    obtain ⟨calls, htrace, hsilent⟩ := hrow.silent hst
    rw [hrow.st hst, htrace, toneOf_append, foldl_toneAfter_of_silent hsilent, h]

/-- An instruction whose row stores nothing leaves all Memory as it was. -/
theorem ObeysRow.mem_eq {i : Instr} {s t : State} (h : ObeysRow i s t) (hi : bytesStored i = 0) : t.mem = s.mem := by
  obtain ⟨bs, hl, -, hm⟩ := h.mem
  obtain rfl : bs = [] := List.length_eq_zero_iff.mp (by omega)
  exact hm

/-- What the invariant says of the stack (60_exceptions.md R182, 10_state.md R20). -/
def StackInRange (s : State) : Prop :=
  (∀ k : BitVec 4, k.toNat < s.sp.toNat → 0x202 ≤ (s.readSlot k).toNat ∧ (s.readSlot k).toNat ≤ 0x1000) ∧
  s.readSlot 15 = 0

/-- A pop leaves fewer return addresses held. -/
theorem stackInRange_pop {s : State} (h : StackInRange s) (hsp : s.sp.toNat ≠ 0) : StackInRange (s.setSp (s.sp - 1)) :=
  ⟨fun k (hk : k.toNat < (s.sp - 1).toNat) => h.1 k (by bv_omega), h.2⟩

/-- A CALL in the window holds a return address in range, in a slot below 15. -/
theorem stackInRange_push {s : State} (h : StackInRange s) (hsp : s.sp.toNat ≠ 15) {w : Word} (hlo : 0x202 ≤ w.toNat)
    (hhi : w.toNat ≤ 0x1000) : StackInRange ((s.writeSlot s.sp w).setSp (s.sp + 1)) := by
  obtain ⟨hret, h15⟩ := h
  refine ⟨fun k (hk : k.toNat < (s.sp + 1).toNat) => ?_, ?_⟩ <;> rw [setSp_readSlot]
  · by_cases hks : k = s.sp
    · rw [hks, readSlot_writeSlot_same]
      exact ⟨hlo, hhi⟩
    · rw [readSlot_writeSlot_other _ _ hks]
      exact hret k (by bv_omega)
  · rw [readSlot_writeSlot_other _ _ (by bv_omega), h15]

theorem execState_stackInRange (i : Instr) {s : State} (hw : s.inWindow = true) (h : StackInRange s) :
    StackInRange (execState i s) := by
  have hrow := execState_obeysRow i s
  cases hu : usesStack i with
  | false =>
    have hcall : ∀ a, i ≠ .callAddr a := by rintro a rfl; cases hu
    have hslots : ∀ k, (execState i s).readSlot k = s.readSlot k := fun k => hrow.slots k (.inl hcall)
    simpa only [StackInRange, hslots, hrow.sp hu] using h
  | true =>
    cases i with
    | ret =>
      rcases execState_ret_cases s with ⟨hsp, e⟩ | ⟨-, e⟩ <;> rw [e]
      · exact stackInRange_pop h hsp
      · exact h
    | callAddr a =>
      obtain ⟨hlo, hhi⟩ := (inWindow_iff s).mp hw
      rcases execState_callAddr_cases a s with ⟨hsp, e⟩ | ⟨-, e⟩ <;> rw [e]
      · exact stackInRange_push h hsp (by bv_omega) (by bv_omega)
      · exact h
    | _ => cases hu

/-! ### What the window check and the fetch read -/

theorem inWindow_congr {s t : State} (hpc : t.pc = s.pc) : t.inWindow = s.inWindow := by
  rw [State.inWindow, hpc, State.inWindow]

theorem fetchWord_congr {s t : State} (hpc : t.pc = s.pc) (hmem : t.mem = s.mem) : t.fetchWord = s.fetchWord := by
  simp only [State.fetchWord, State.byteAt, hpc, hmem]

/-! ### The invariant phase by phase -/

theorem fault_eq_none_of_invariant {s : State} (h : Invariant s) (hr : s.run ≠ .halted) : s.fault = .none := by
  by_contra hf
  exact hr (h.haltedIffLatched.mpr hf)

/-- The invariant of a state in which no cause is latched: the clauses about a latched cause say nothing. -/
theorem invariant_of_not_latched {s : State} (hmem : s.mem.wf = true) (hrun : s.run ≠ .halted)
    (hfault : s.fault = .none) (hinfo : s.faultInfo = FaultInfo.zero)
    (hpulse : s.unrecognised = true → s.run = .running) (hstack : StackInRange s)
    (htone : toneOf s.ports.trace = some (s.st != 0))
    (hwait : s.run = .awaitingKey → s.inWindow = true ∧ ∃ x, decodeWord s.fetchWord = .instr (.ldVxK x)) :
    Invariant s where
  memCanonical := hmem
  haltedIffLatched := ⟨fun h => absurd h hrun, fun h => absurd hfault h⟩
  infoZero _ := hinfo
  onlyLatchable := by rw [hfault]; exact ⟨nofun, nofun⟩
  outOfBounds h := by rw [hfault] at h; cases h
  outOfWindow h := by rw [hfault] at h; cases h
  pulseOnlyRunning := hpulse
  returnAddresses := hstack.1
  slot15Unused := hstack.2
  toneWhileSt := htone
  awaitingAtKeyWait := hwait

theorem invariant_beginCycle {s : State} (h : Invariant s) (hr : s.run ≠ .halted) : Invariant s.beginCycle :=
  have hnone := fault_eq_none_of_invariant h hr
  invariant_of_not_latched h.memCanonical nofun hnone (h.infoZero hnone) nofun ⟨h.returnAddresses, h.slot15Unused⟩
    h.toneWhileSt nofun

/-- The unrecognised word completes its cycle, so that the pulse may be 1 (10_state.md R31). -/
theorem invariant_unrecognisedWord {s : State} (h : Invariant s) (hr : s.run = .running) :
    Invariant s.unrecognisedWord := by
  have hnone := fault_eq_none_of_invariant h (by rw [hr]; exact nofun)
  exact invariant_of_not_latched h.memCanonical (by simp [hr]) hnone (h.infoZero hnone) (fun _ => hr)
    ⟨h.returnAddresses, h.slot15Unused⟩ h.toneWhileSt (by simp [hr])

/-- A fetch outside the window latches its cause, with PC as its detail (60_exceptions.md R172). -/
theorem invariant_raise_outside {s : State} (h : Invariant s) (hp : s.unrecognised = false)
    (hw : s.inWindow = false) : Invariant (s.raise .programCounterOutOfProgramRegion .none s.pc.toNat) where
  memCanonical := h.memCanonical
  haltedIffLatched := ⟨fun _ => nofun, fun _ => rfl⟩
  infoZero := nofun
  onlyLatchable := ⟨nofun, nofun⟩
  outOfBounds := nofun
  outOfWindow _ := ⟨by rw [raise_faultInfo, BitVec.ofNat_toNat]; rfl, hw⟩
  pulseOnlyRunning hpulse := absurd (hp.symm.trans hpulse) (by decide)
  returnAddresses := h.returnAddresses
  slot15Unused := h.slot15Unused
  toneWhileSt := h.toneWhileSt
  awaitingAtKeyWait := nofun

theorem invariant_execState {s : State} {i : Instr} (h : Invariant s) (hr : s.run = .running)
    (hp : s.unrecognised = false) (hw : s.inWindow = true) (hd : decodeWord s.fetchWord = .instr i) :
    Invariant (execState i s) := by
  have hrun : s.run ≠ .halted := by rw [hr]; exact nofun
  have hmem := execState_mem_wf i h.memCanonical
  have hstack := execState_stackInRange i hw ⟨h.returnAddresses, h.slot15Unused⟩
  have htone := execState_tone i h.toneWhileSt
  have hrow := execState_obeysRow i s
  have hpulse : (execState i s).unrecognised = true → (execState i s).run = .running := fun hf =>
    Bool.noConfusion (hp.symm.trans (hrow.pulse.symm.trans hf))
  rcases execState_ends i s with hend | hend
  · obtain ⟨hfault, hinfo⟩ := hend.latches
    have hnone := fault_eq_none_of_invariant h hrun
    refine invariant_of_not_latched hmem (hend.not_halted hrun) (hfault.trans hnone) (hinfo.trans (h.infoZero hnone))
      hpulse hstack htone fun hwait => ?_
    rcases hend.run with e | ⟨x, rfl, e | ⟨-, hpc⟩⟩
    · rw [e, hr] at hwait; cases hwait
    · rw [e] at hwait; cases hwait
    · rw [inWindow_congr hpc, fetchWord_congr hpc (hrow.mem_eq rfl)]
      exact ⟨hw, x, hd⟩
  · exact {
      memCanonical := hmem
      haltedIffLatched := ⟨fun _ => by rw [hend.cause]; exact nofun, fun _ => hend.run⟩
      infoZero := fun hf => by rw [hend.cause] at hf; cases hf
      onlyLatchable := by rw [hend.cause]; exact ⟨nofun, nofun⟩
      outOfBounds := fun _ => ⟨hend.infoPc.trans hend.pc.symm, (inWindow_congr hend.pc).trans hw, hend.detail⟩
      outOfWindow := fun hf => by rw [hend.cause] at hf; cases hf
      pulseOnlyRunning := hpulse
      returnAddresses := hstack.1
      slot15Unused := hstack.2
      toneWhileSt := htone
      awaitingAtKeyWait := fun hf => by rw [hend.run] at hf; cases hf }

theorem invariant_tick {s : State} (h : Invariant s) : Invariant s.tick where
  memCanonical := by rw [tick_mem]; exact h.memCanonical
  haltedIffLatched := by rw [tick_run, tick_fault]; exact h.haltedIffLatched
  infoZero := by rw [tick_fault, tick_faultInfo]; exact h.infoZero
  onlyLatchable := by rw [tick_fault]; exact h.onlyLatchable
  outOfBounds := by
    rw [tick_fault, inWindow_congr (tick_pc s), outOfBoundsDetail, tick_faultInfo, tick_pc, tick_sp]
    exact h.outOfBounds
  outOfWindow := by rw [tick_fault, tick_faultInfo, inWindow_congr (tick_pc s), tick_pc]; exact h.outOfWindow
  pulseOnlyRunning := by rw [tick_unrecognised, tick_run]; exact h.pulseOnlyRunning
  returnAddresses := by simpa only [State.readSlot, tick_stack, tick_sp] using h.returnAddresses
  slot15Unused := by simpa only [State.readSlot, tick_stack] using h.slot15Unused
  toneWhileSt := tick_tone s h.toneWhileSt
  awaitingAtKeyWait := by
    rw [tick_run, inWindow_congr (tick_pc s), fetchWord_congr (tick_pc s) (tick_mem s)]
    exact h.awaitingAtKeyWait

theorem invariant_endCycle {s : State} (h : Invariant s) : Invariant s.endCycle := by
  unfold State.endCycle
  split
  · exact invariant_tick h
  · exact h

/-- Settles O23: each case of a step is a beginning, a phase and an end, and each keeps the invariant. -/
theorem stepKeepsInvariant : Obligations.StepKeepsInvariant := by
  intro s t h hstep
  rcases step_eq_next_cases hstep with ⟨-, rfl⟩ | ⟨hr, hw, rfl⟩ | ⟨hr, hw, i, hd, rfl⟩ | ⟨hr, hw, rfl⟩
  · exact h
  · exact invariant_raise_outside (invariant_beginCycle h hr) rfl hw
  · exact invariant_endCycle (invariant_execState (invariant_beginCycle h hr) rfl rfl hw hd)
  · exact invariant_endCycle (invariant_unrecognisedWord (invariant_beginCycle h hr) rfl)

/-! ### Reset and the loader -/

/-- The reset values meet the invariant, whatever the host's side holds, if the trace begins again. -/
theorem invariant_reset (q : Ports) (hq : q.trace = []) : Invariant (State.reset.setPorts q) :=
  invariant_of_not_latched reset_mem_wf nofun rfl rfl nofun
    ⟨fun k hk => absurd hk (Nat.not_lt_zero _), rfl⟩ (by rw [setPorts_ports, hq]; rfl) nofun

/-- Settles O24: a reset, at power-on or in mid-run, leaves the reset values and an empty trace. -/
theorem resetMeetsInvariant : Obligations.ResetMeetsInvariant :=
  ⟨invariant_reset Ports.fresh rfl, fun _ => invariant_reset _ rfl⟩

/-- Another canonical Memory keeps the invariant while no key is awaited: no other clause reads Memory. -/
theorem invariant_setMem {s : State} {m : Memory} (h : Invariant s) (hm : m.wf = true) (hr : s.run ≠ .awaitingKey) :
    Invariant (s.setMem m) :=
  { h with memCanonical := hm, awaitingAtKeyWait := fun hf => absurd hf hr }

/-- Settles O25: an accepted load is a copy that fits, and leaves Memory canonical. -/
theorem loadProgramKeepsInvariant : Obligations.LoadProgramKeepsInvariant := by
  intro s t image h hr hload
  have hfits : image.length ≤ romMax := by
    by_contra hlong
    rw [loadProgram_of_overlong s (Nat.lt_of_not_le hlong)] at hload
    cases hload
  rw [loadProgram_of_fits s hfits] at hload
  rw [← Host.Outcome.next.inj hload]
  rw [romMax_eq] at hfits
  exact invariant_setMem h (copyIn_wf h.memCanonical (by simp only [programBase, memSize]; omega)) hr

end Sys2Proof.Machine.Proofs

/-! The PC an execute phase leaves (10_state.md R25). -/

namespace Sys2Proof.Machine.Proofs

open Sys2Proof.Machine.Laws

theorem addrWord_toNat (a : Addr) : (addrWord a).toNat = a.toNat := by
  have := a.isLt
  simp only [addrWord, BitVec.toNat_setWidth]
  omega

theorem byteWord_toNat (b : Byte) : (byteWord b).toNat = b.toNat := by
  have := b.isLt
  simp only [byteWord, BitVec.toNat_setWidth]
  omega

/-- The sum of JP V0,addr is below 65536, so that it is not reduced (40_flow.md R108). -/
theorem addrWord_add_byteWord_toNat (a : Addr) (b : Byte) : (addrWord a + byteWord b).toNat = a.toNat + b.toNat := by
  have := a.isLt
  have := b.isLt
  rw [BitVec.toNat_add, addrWord_toNat, byteWord_toNat]
  omega

theorem storeEnds_pc {bs : List Byte} {s t : State} (h : StoreEnds bs s t) (hr : t.run ≠ .halted) :
    t.pc = s.pc + 2 := by
  rcases h with ⟨-, rfl⟩ | ⟨-, rfl⟩
  · rfl
  · exact absurd rfl hr

theorem execState_pcAfter (i : Instr) {s : State} (hr : (execState i s).run ≠ .halted) :
    pcAfter i s (execState i s) := by
  cases i with
  | ret =>
    rcases execState_ret_cases s with ⟨-, e⟩ | ⟨-, e⟩ <;> rw [e] at hr ⊢
    · rfl
    · exact absurd rfl hr
  | callAddr a =>
    rcases execState_callAddr_cases a s with ⟨-, e⟩ | ⟨-, e⟩ <;> rw [e] at hr ⊢
    · exact addrWord_toNat a
    · exact absurd rfl hr
  | jpAddr a => exact addrWord_toNat a
  | jpV0Addr a => exact addrWord_add_byteWord_toNat a _
  | seVxByte x b => exact if_congr beq_iff_eq rfl rfl
  | seVxVy x y => exact if_congr beq_iff_eq rfl rfl
  | sneVxByte x b => exact if_congr bne_iff_ne rfl rfl
  | sneVxVy x y => exact if_congr bne_iff_ne rfl rfl
  | skpVx x =>
    obtain ⟨d, q, e, ht, -⟩ := isKeyDown_spec s (s.readV x)
    rw [execState_skpVx e]
    exact ⟨d, ht, rfl⟩
  | sknpVx x =>
    obtain ⟨d, q, e, ht, -⟩ := isKeyDown_spec s (s.readV x)
    rw [execState_sknpVx e]
    exact ⟨d, ht, if_congr (by simp) rfl rfl⟩
  | ldVxK x =>
    obtain ⟨a, q, e, ht, -⟩ := pollKey_spec s
    rw [execState_ldVxK e]
    exact ⟨a, (congrArg Ports.trace (takeKey_ports ..)).trans ht, takeKey_pc ..⟩
  | ldBVx x => exact storeEnds_pc (execState_ldBVx_ends x s) hr
  | ldMemVx x => exact storeEnds_pc (execState_ldMemVx_ends x s) hr
  | ldVxMem x =>
    obtain ⟨u, hu, -, ⟨-, e⟩ | ⟨-, e⟩⟩ := execState_ldVxMem_cases x s <;> rw [e, hu] at hr ⊢
    · rfl
    · exact absurd rfl hr
  | drwVxVyN x y n =>
    obtain ⟨cs, q, -, -, -, -, -, -, ⟨-, -, e⟩ | ⟨-, -, e⟩⟩ := execState_drwVxVyN_cases x y n s <;> rw [e] at hr ⊢
    · rfl
    · exact absurd rfl hr
  | rndVxByte x b =>
    obtain ⟨r, q, e, -⟩ := randomByte_spec s
    rw [execState_rndVxByte e]
    rfl
  | _ => rfl

/-- Settles O26: the class of each instruction, with the two ends of those that can fault. -/
theorem pcAdvancesByItsClass : Obligations.PcAdvancesByItsClass := by
  refine ⟨fun i s t h hr => ?_, fun _ => rfl⟩
  rw [← execState_of_exec h] at hr ⊢
  exact execState_pcAfter i hr

end Sys2Proof.Machine.Proofs

/-! What an execute phase cannot read (10_state.md R17, R21, R27): a change of ST, of the tick divider or of the stack
passes through every operation that does not use that field, on both of its ends, and so through every instruction that
does not. -/

namespace Sys2Proof.Machine.Proofs

open Sys2Proof.Machine.Laws

/-- ST, the tick divider and the stack changed, and nothing else. -/
def regraft (f : Byte → Byte) (g : BitVec 3 → BitVec 3) (k : Vector Word 16 → Vector Word 16) (s : State) : State :=
  { s with st := f s.st, tickcnt := g s.tickcnt, stack := k s.stack }

section
variable (f : Byte → Byte) (g : BitVec 3 → BitVec 3) (k : Vector Word 16 → Vector Word 16) (s : State)

@[simp] theorem regraft_pc : (regraft f g k s).pc = s.pc := rfl
@[simp] theorem regraft_ports : (regraft f g k s).ports = s.ports := rfl
@[simp] theorem regraft_readV (x : Reg) : (regraft f g k s).readV x = s.readV x := rfl
@[simp] theorem regraft_regsUpTo (x : Reg) : (regraft f g k s).regsUpTo x = s.regsUpTo x := rfl
@[simp] theorem regraft_effectiveAddr (a : Nat) : (regraft f g k s).effectiveAddr a = s.effectiveAddr a := rfl

/-! ### The operations -/

theorem push_regraft (w : Word) : (regraft f g id s).push w =
    ((s.push w).map (regraft f g id)).mapError (regraft f g id) := by
  rcases push_cases s w with ⟨e, h⟩ | ⟨e, h⟩ <;> rw [e]
  · exact push_ok _ w h
  · exact push_error _ w h

theorem pop_regraft : (regraft f g id s).pop =
    (s.pop.map (Prod.map id (regraft f g id))).mapError (regraft f g id) := by
  rcases pop_cases s with ⟨e, h⟩ | ⟨e, h⟩ <;> rw [e]
  · exact pop_ok _ h
  · exact pop_error _ h

theorem memRead_regraft (a : Nat) : (regraft f g k s).memRead a = (s.memRead a).mapError (regraft f g k) := by
  simp only [State.memRead]
  split <;> rfl

theorem storeBytes_regraft (a : Nat) (bs : List Byte) : (regraft f g k s).storeBytes a bs =
    ((s.storeBytes a bs).map (regraft f g k)).mapError (regraft f g k) := by
  rcases storeBytes_cases a bs with h | ⟨hne, h⟩
  · rw [storeBytes_ok _ h, storeBytes_ok _ h]; rfl
  · rw [storeBytes_error _ hne h, storeBytes_error _ hne h]; rfl

theorem loadRegs_regraft (a n : Nat) : (regraft f g k s).loadRegs a n =
    ((s.loadRegs a n).map (regraft f g k)).mapError (regraft f g k) := by
  induction n with
  | zero => rfl
  | succ n ih =>
    simp only [State.loadRegs, ih]
    rcases s.loadRegs a n with h | u
    · rfl
    · simp only [Except.map, Except.mapError, memRead_regraft]
      cases u.memRead (a + n) <;> rfl

theorem randomByte_regraft : (regraft f g k s).randomByte = Prod.map id (regraft f g k) s.randomByte := by
  simp only [State.randomByte, regraft_ports]
  split <;> rfl

theorem isKeyDown_regraft (b : Byte) : (regraft f g k s).isKeyDown b = Prod.map id (regraft f g k) (s.isKeyDown b) := by
  simp only [State.isKeyDown, regraft_ports]
  split <;> rfl

theorem pollKey_regraft : (regraft f g k s).pollKey = Prod.map id (regraft f g k) s.pollKey := by
  simp only [State.pollKey, regraft_ports]
  split <;> rfl

theorem drawByte_regraft (x : Byte) (y : BitVec 9) (b : Byte) :
    (regraft f g k s).drawByte x y b = Prod.map id (regraft f g k) (s.drawByte x y b) := by
  simp only [State.drawByte, regraft_ports]
  split <;> rfl

theorem drawRows_regraft (a : Nat) (cx cy : Byte) (n : Nat) : (regraft f g k s).drawRows a cx cy n =
    ((s.drawRows a cx cy n).map (Prod.map id (regraft f g k))).mapError (regraft f g k) := by
  induction n with
  | zero => rfl
  | succ n ih =>
    simp only [State.drawRows, ih]
    rcases s.drawRows a cx cy n with h | ⟨hit, u⟩
    · rfl
    · simp only [Except.map, Except.mapError, Prod.map, memRead_regraft]
      cases u.memRead (a + n) with
      | error h => rfl
      | ok b => simp only [drawByte_regraft]; rfl

theorem takeKey_regraft (x : Reg) (a : Option Nibble) :
    (regraft f g k s).takeKey x a = regraft f g k (s.takeKey x a) := by
  cases a <;> rfl

/-! ### The instructions -/

/-- An instruction that uses neither the sound timer nor the stack, where they are changed, lets the change through. -/
theorem execState_regraft (i : Instr) (hf : (∀ x, i ≠ .ldStVx x) ∨ f = id) (hk : usesStack i = false ∨ k = id) :
    execState i (regraft f g k s) = regraft f g k (execState i s) := by
  cases i with
  | ldStVx x =>
    obtain rfl := hf.resolve_left fun h => h x rfl
    rfl
  | ret =>
    obtain rfl := hk.resolve_left nofun
    simp only [execState, exec, execRet, pop_regraft]
    cases s.pop <;> rfl
  | callAddr a =>
    obtain rfl := hk.resolve_left nofun
    simp only [execState, exec, execCallAddr, regraft_pc, push_regraft]
    cases s.push (s.pc + 2) <;> rfl
  | ldBVx x =>
    simp only [execState, exec, execLdBVx, regraft_effectiveAddr, regraft_readV, storeBytes_regraft]
    cases s.storeBytes (s.effectiveAddr 0) (decimalDigits (s.readV x)) <;> rfl
  | ldMemVx x =>
    simp only [execState, exec, execLdMemVx, regraft_effectiveAddr, regraft_regsUpTo, storeBytes_regraft]
    cases s.storeBytes (s.effectiveAddr 0) (s.regsUpTo x) <;> rfl
  | ldVxMem x =>
    simp only [execState, exec, execLdVxMem, regraft_effectiveAddr, loadRegs_regraft]
    cases s.loadRegs (s.effectiveAddr 0) (x.toNat + 1) <;> rfl
  | drwVxVyN x y n =>
    simp only [execState, exec, execDrwVxVyN, regraft_effectiveAddr, regraft_readV, drawRows_regraft]
    cases s.drawRows (s.effectiveAddr 0) (s.readV x) (s.readV y) n.toNat <;> rfl
  | rndVxByte x b =>
    simp only [execState, exec, execRndVxByte, randomByte_regraft]
    rfl
  | skpVx x =>
    simp only [execState, exec, execSkpVx, regraft_readV, isKeyDown_regraft]
    rfl
  | sknpVx x =>
    simp only [execState, exec, execSknpVx, regraft_readV, isKeyDown_regraft]
    rfl
  | ldVxK x =>
    simp only [execState, exec, execLdVxK, pollKey_regraft]
    exact takeKey_regraft ..
  | _ => rfl

theorem exec_regraft {i : Instr} {s t : State} (h : exec i s = .next t) (hf : (∀ x, i ≠ .ldStVx x) ∨ f = id)
    (hk : usesStack i = false ∨ k = id) : exec i (regraft f g k s) = .next (regraft f g k t) := by
  rw [exec_eq, execState_regraft f g k s i hf hk, execState_of_exec h]

end

/-- Settles O28: no instruction uses the tick divider. -/
theorem tickCounterIsUnobservable : Obligations.TickCounterIsUnobservable :=
  fun _ _ _ c h => exec_regraft id (fun _ => c) id h (.inr rfl) (.inr rfl)

/-- Settles O29: LD ST,Vx alone uses the sound timer, to tell its audio edge. -/
theorem soundTimerIsUnreadable : Obligations.SoundTimerIsUnreadable :=
  fun _ _ _ b hi h => exec_regraft (fun _ => b) id id h (.inl hi) (.inr rfl)

/-- A slot changed is the stack changed, on both sides of an instruction that does not use the stack. -/
theorem exec_writeSlot {i : Instr} {s t : State} (h : exec i s = .next t) (hi : usesStack i = false) (k : BitVec 4)
    (w : Word) : exec i (s.writeSlot k w) = .next (t.writeSlot k w) :=
  exec_regraft id id (fun v => v.set k.toNat w k.isLt) h (.inr rfl) (.inl hi)

/-- RET reads the slot below SP, so none at or above it. -/
theorem execState_ret_writeSlot (s : State) {k : BitVec 4} (w : Word) (hk : s.sp.toNat ≤ k.toNat) :
    execState .ret (s.writeSlot k w) = (execState .ret s).writeSlot k w := by
  rcases execState_ret_cases s with ⟨h, e⟩ | ⟨h, e⟩ <;>
    rcases execState_ret_cases (s.writeSlot k w) with ⟨h', e'⟩ | ⟨h', e'⟩ <;> rw [e, e']
  · rw [writeSlot_sp, readSlot_writeSlot_other _ _ (by bv_omega)]
    rfl
  · exact absurd h' h
  · exact absurd h h'
  · rfl

/-- CALL writes the slot at SP whatever it held, and reads none. -/
theorem execState_callAddr_writeSlot (a : Addr) (s : State) (k : BitVec 4) (w : Word) :
    ∃ l, execState (.callAddr a) (s.writeSlot k w) = { execState (.callAddr a) s with stack := l } ∧
      ∀ j, j ≠ k → (execState (.callAddr a) (s.writeSlot k w)).readSlot j = (execState (.callAddr a) s).readSlot j := by
  rcases execState_callAddr_cases a s with ⟨h, e⟩ | ⟨h, e⟩ <;>
    rcases execState_callAddr_cases a (s.writeSlot k w) with ⟨h', e'⟩ | ⟨h', e'⟩ <;> rw [e, e']
  · refine ⟨_, rfl, fun j hj => ?_⟩
    simp only [setPc_readSlot, setSp_readSlot, writeSlot_sp, writeSlot_pc]
    by_cases hs : j = s.sp
    · rw [hs, readSlot_writeSlot_same, readSlot_writeSlot_same]
    · rw [readSlot_writeSlot_other _ _ hs, readSlot_writeSlot_other _ _ hs, readSlot_writeSlot_other _ _ hj]
  · exact absurd h' h
  · exact absurd h h'
  · exact ⟨_, rfl, fun j hj => readSlot_writeSlot_other s w hj⟩

/-- Settles O30: CALL and RET use the stack at SP and below it, and the other instructions do not use it. -/
theorem staleSlotsAreUnobservable : Obligations.StaleSlotsAreUnobservable := by
  intro i s t k w hk h
  by_cases hcall : ∃ a, i = .callAddr a
  · obtain ⟨a, rfl⟩ := hcall
    obtain ⟨l, e, hl⟩ := execState_callAddr_writeSlot a s k w
    rw [execState_of_exec h] at e hl
    exact ⟨_, exec_eq _ _, by rw [e], hl⟩
  · have e : exec i (s.writeSlot k w) = .next (t.writeSlot k w) := by
      cases hu : usesStack i with
      | false => exact exec_writeSlot h hu k w
      | true =>
        cases i with
        | ret => rw [exec_eq, execState_ret_writeSlot s w hk, execState_of_exec h]
        | callAddr a => exact absurd ⟨a, rfl⟩ hcall
        | _ => cases hu
    exact ⟨_, e, rfl, fun j hj => readSlot_writeSlot_other t w hj⟩

end Sys2Proof.Machine.Proofs

/-! Memory accesses (20_memory.md R41, R42; 42_index_memory.md R143 to R146): one byte, an image, and the three
instructions that move several, with what each leaves on both of its ends. -/

namespace Sys2Proof.Machine.Proofs

open Sys2Proof.Machine.Laws

theorem memSize_eq : memSize = 4096 := rfl

/-! ### What a fault leaves (60_exceptions.md R174) -/

/-- The latches after a fault of the instruction at the PC of `s`, an address of 17 bits being latched whole. -/
theorem latchedFrom_raise {s u : State} {c : Cause} {k : AccessKind} {a : Nat} (ha : a < 2 ^ 17) (hpc : u.pc = s.pc)
    (hp : u.unrecognised = s.unrecognised) : LatchedFrom s (u.raise c k a) c k a :=
  ⟨rfl, rfl, rfl, (BitVec.toNat_ofNat a 17).trans (Nat.mod_eq_of_lt ha), hpc, hpc, hp⟩

theorem raisedFrom_raise (s : State) {c : Cause} {k : AccessKind} {a : Nat} (ha : a < 2 ^ 17) :
    RaisedFrom s (s.raise c k a) c k a :=
  ⟨latchedFrom_raise ha rfl rfl, fun _ _ => rfl, fun _ => rfl, ⟨rfl, fun _ => rfl⟩, ⟨rfl, rfl, rfl⟩, rfl, rfl⟩

/-! ### One byte -/

/-- Settles O6: the bounds check is all that decides, and the address fits its latch. -/
theorem memReadIsBoundsChecked : Obligations.MemReadIsBoundsChecked := by
  refine fun s a => ⟨fun h => memRead_ok s h, fun h hle => ⟨_, memRead_error s h, ?_⟩⟩
  obtain ⟨hrun, hfault, hkind, haddr, -⟩ :=
    latchedFrom_raise (s := s) (u := s) (c := .addressOutOfBounds) (k := .memRead) (a := a) (by omega) rfl rfl
  exact ⟨hrun, hfault, hkind, haddr⟩

/-- Settles O7: a store in bounds is one write of canonical Memory, and one out of bounds is a fault. -/
theorem memWriteIsBoundsChecked : Obligations.MemWriteIsBoundsChecked := by
  intro s a b hwf
  refine ⟨fun h => ⟨_, memWrite_ok s b h, read_write_same hwf, fun z hz => read_write_other s.mem b (by omega), rfl⟩,
    fun h hle => ⟨_, memWrite_error s b h, raisedFrom_raise s (by omega)⟩⟩

/-! ### An image -/

/-- Settles O10: an image that fits is copied in above the program base. -/
theorem loadProgramCopiesImage : Obligations.LoadProgramCopiesImage := by
  intro s image hwf hlen
  refine ⟨_, loadProgram_of_fits s hlen, fun k hk => ?_, fun z hz => read_copyIn_outside s.mem hz, rfl⟩
  exact read_copyIn hwf (by simp only [programBase, memSize]; omega) hk

/-! ### The storing instructions -/

section
variable {s t : State} {bs : List Byte}

/-- Bytes that all lie in Memory stand there after the store, and nothing else but PC changed. -/
theorem storeEnds_inside (h : StoreEnds bs s t) (hwf : s.mem.wf = true) (hm : s.effectiveAddr 0 + bs.length ≤ 4096) :
    (∀ k (hk : k < bs.length), t.byteAt (s.effectiveAddr k) = bs[k]) ∧ t.pc = s.pc + 2 ∧
    OnlyMemAt (s.effectiveAddr 0) bs.length s t := by
  rcases h with ⟨-, rfl⟩ | ⟨hpast, -⟩
  · exact ⟨fun k hk => read_copyIn hwf hm hk, rfl, fun _ _ => rfl, fun z hz => read_copyIn_outside s.mem hz,
      ⟨rfl, fun _ => rfl⟩, ⟨rfl, rfl, rfl⟩, ⟨rfl, rfl, rfl, rfl⟩, rfl, rfl⟩
  · rw [memSize_eq] at hpast
    omega

/-- Of bytes that run past Memory those below 4096 stand there, the first address that is not is latched, and nothing
else changed. -/
theorem storeEnds_past (h : StoreEnds bs s t) (hwf : s.mem.wf = true) (hm : 4096 < s.effectiveAddr 0 + bs.length) :
    LatchedFrom s t .addressOutOfBounds .memWrite (max (s.effectiveAddr 0) 4096) ∧
    (∀ k (hk : k < bs.length), s.effectiveAddr k < 4096 → t.byteAt (s.effectiveAddr k) = bs[k]) ∧
    SameMemOutside (s.effectiveAddr 0) (4096 - s.effectiveAddr 0) s t ∧
    SameRegsBut [] s t ∧ SameStack s t ∧ SameTimers s t ∧ SamePorts s t ∧ t.i = s.i := by
  rcases h with ⟨hin, -⟩ | ⟨-, rfl⟩
  · rw [memSize_eq] at hin
    omega
  refine ⟨latchedFrom_raise (max_effectiveAddr_lt s) rfl rfl, fun k hk hlt => ?_, fun z hz => ?_, fun _ _ => rfl,
    ⟨rfl, fun _ => rfl⟩, ⟨rfl, rfl, rfl⟩, rfl, rfl⟩
  · have hlt' : s.effectiveAddr 0 + k < 4096 := hlt
    have hlen : (bs.take (memSize - s.effectiveAddr 0)).length = memSize - s.effectiveAddr 0 := by
      rw [List.length_take, memSize_eq]
      omega
    rw [← List.getElem_take (j := memSize - s.effectiveAddr 0) (h := by rw [hlen, memSize_eq]; omega)]
    exact read_copyIn hwf (by rw [hlen, memSize_eq]; omega) (by rw [hlen, memSize_eq]; omega)
  · refine read_copyIn_outside s.mem ?_
    rw [List.length_take, memSize_eq]
    omega

end

/-- The byte stored for a register is what it holds. -/
theorem regsUpTo_getElem (s : State) {x r : Reg} (hr : r.toNat ≤ x.toNat) :
    (s.regsUpTo x)[r.toNat]'(by rw [regsUpTo_length]; omega) = s.readV r := by
  simp [State.regsUpTo]

/-- The three digits are below 256, so that a byte holds each. -/
theorem decimalDigits_toNat (b : Byte) :
    (decimalDigits b).map BitVec.toNat = [b.toNat / 100, b.toNat / 10 % 10, b.toNat % 10] := by
  have := b.isLt
  simp only [decimalDigits, List.map_cons, List.map_nil, BitVec.toNat_ofNat, List.cons.injEq, and_true]
  omega

/-- Settles O47: three bytes that fit, and they are the digits. -/
theorem decimalDigitsStored : Obligations.DecimalDigitsStored := by
  intro s x hwf hm
  obtain ⟨hbytes, hpc, hframe⟩ := storeEnds_inside (execState_ldBVx_ends x s) hwf hm
  have hdigits := decimalDigits_toNat (s.readV x)
  simp only [decimalDigits, List.map_cons, List.map_nil, List.cons.injEq, and_true] at hdigits
  obtain ⟨h100, h10, h1⟩ := hdigits
  refine ⟨_, exec_eq _ s, ?_, ?_, ?_, hpc, hframe⟩
  · rw [hbytes 0 (by simp [decimalDigits])]; exact h100
  · rw [hbytes 1 (by simp [decimalDigits])]; exact h10
  · rw [hbytes 2 (by simp [decimalDigits])]; exact h1

/-- Settles O48: x + 1 bytes that fit, and they are the registers. -/
theorem registersStored : Obligations.RegistersStored := by
  intro s x hwf hm
  have hm' : s.effectiveAddr 0 + (s.regsUpTo x).length ≤ 4096 := by
    rw [regsUpTo_length]
    exact hm
  obtain ⟨hbytes, hpc, hframe⟩ := storeEnds_inside (execState_ldMemVx_ends x s) hwf hm'
  rw [regsUpTo_length] at hframe
  refine ⟨_, exec_eq _ s, fun r hr => ?_, hpc, hframe⟩
  rw [hbytes r.toNat (by rw [regsUpTo_length]; omega), regsUpTo_getElem s hr]

/-- Settles O50: both storing instructions are one store that runs past Memory. -/
theorem storePastMemoryHalts : Obligations.StorePastMemoryHalts := by
  refine ⟨fun s x hwf hm => ⟨_, exec_eq _ s, storeEnds_past (execState_ldBVx_ends x s) hwf hm⟩, fun s x hwf hm => ?_⟩
  have hm' : 4096 < s.effectiveAddr 0 + (s.regsUpTo x).length := by
    rw [regsUpTo_length]
    exact Nat.lt_succ_of_le hm
  obtain ⟨hlatch, hbytes, hframe⟩ := storeEnds_past (execState_ldMemVx_ends x s) hwf hm'
  refine ⟨_, exec_eq _ s, hlatch, fun r hr hlt => ?_, hframe⟩
  rw [hbytes r.toNat (by rw [regsUpTo_length]; omega) hlt, regsUpTo_getElem s hr]

/-- Settles O31: PC + 2 is I, so that the next fetch reads the bytes V0 and V1 were stored to. -/
theorem storedCodeIsFetched : Obligations.StoredCodeIsFetched := by
  intro s x hwf hx hi hm
  obtain ⟨t, he, hbytes, hpc, -⟩ := registersStored s x hwf (show s.i.toNat + x.toNat < 4096 by omega)
  refine ⟨t, he, hpc, ?_⟩
  have h0 : t.byteAt s.i.toNat = s.readV 0 := hbytes 0 (Nat.zero_le _)
  have h1 : t.byteAt (s.i.toNat + 1) = s.readV 1 := hbytes 1 hx
  rw [fetchIsBigEndian, hpc, ← hi, h0, h1]

/-! ### The load -/

/-- Settles O49: with I + x in Memory every register up to Vx has its byte. -/
theorem registersLoaded : Obligations.RegistersLoaded := by
  intro s x hm
  obtain ⟨u, hu, hr, ⟨-, e⟩ | ⟨hpast, -⟩⟩ := execState_ldVxMem_cases x s
  · have hregs : ∀ r : Reg, u.readV r =
        if r.toNat ≤ x.toNat then s.byteAt (s.effectiveAddr r.toNat) else s.readV r := by
      intro r
      rw [hr]
      refine if_congr ?_ rfl rfl
      simp only [State.effectiveAddr, memSize_eq] at *
      omega
    refine ⟨_, exec_eq _ s, ?_⟩
    rw [e]
    refine ⟨hregs, by rw [hu]; rfl, fun r hmem => ?_, ?_⟩
    · have := lt_of_not_mem_writtenRegs hmem
      exact (hregs r).trans (if_neg (by omega))
    · rw [hu]
      exact ⟨fun _ => rfl, ⟨rfl, fun _ => rfl⟩, ⟨rfl, rfl, rfl⟩, ⟨rfl, rfl, rfl, rfl⟩, rfl, rfl⟩
  · rw [memSize_eq] at hpast
    omega

/-- Settles O51: with I + x beyond Memory the registers whose byte lies in it are loaded before the fault. -/
theorem loadPastMemoryHalts : Obligations.LoadPastMemoryHalts := by
  intro s x hm
  obtain ⟨u, hu, hr, ⟨hin, -⟩ | ⟨-, e⟩⟩ := execState_ldVxMem_cases x s
  · rw [memSize_eq] at hin
    omega
  · refine ⟨_, exec_eq _ s, ?_⟩
    rw [e]
    refine ⟨latchedFrom_raise (max_effectiveAddr_lt s) (by rw [hu]) (by rw [hu]), hr, ?_⟩
    rw [hu]
    exact ⟨fun _ => rfl, ⟨rfl, fun _ => rfl⟩, ⟨rfl, rfl, rfl⟩, rfl, rfl⟩

end Sys2Proof.Machine.Proofs

/-! The cycle case by case (10_state.md R24): a recognised word, an unrecognised one, a fetch outside the window, a
halted machine, and a run of unanswered key waits. -/

namespace Sys2Proof.Machine.Proofs

open Sys2Proof.Machine.Laws

/-! ### The decoder and the fetch -/

theorem decodeWord_fetchWord_of_ok {s : State} {i : Instr}
    (h : decodeBytes [s.byteAt s.pc.toNat, s.byteAt (s.pc.toNat + 1)] = .ok (i, [])) :
    decodeWord s.fetchWord = .instr i := by
  obtain ⟨hi, lo, hbytes, hd⟩ := decodeBytes_eq_ok_iff.mp h
  simp only [List.cons.injEq, and_true] at hbytes
  obtain ⟨rfl, rfl⟩ := hbytes
  exact hd

theorem decodeWord_fetchWord_of_error {s : State} {w : Word}
    (h : decodeBytes [s.byteAt s.pc.toNat, s.byteAt (s.pc.toNat + 1)] = .error (.unrecognised w)) :
    decodeWord s.fetchWord = .unrecognised := by
  cases hd : decodeWord s.fetchWord with
  | unrecognised => rfl
  | instr i =>
    have hok := (decodeBytes_eq_ok_iff (rest := [])).mpr ⟨_, _, rfl, hd⟩
    exact absurd (h.symm.trans hok) nofun

theorem inWindow_of_bounds {s : State} (hlo : 0x200 ≤ s.pc.toNat) (hhi : s.pc.toNat ≤ 0xFFE) : s.inWindow = true :=
  (inWindow_iff s).mpr ⟨hlo, hhi⟩

/-! ### One step -/

/-- Settles O12: the step is the execute phase from the beginning of the cycle, and then the end of the cycle. -/
theorem stepRunsDecodedInstruction : Obligations.StepRunsDecodedInstruction := by
  intro s t i hr hlo hhi hdecode hexec
  rw [step_instr hr (inWindow_of_bounds hlo hhi) (decodeWord_fetchWord_of_ok hdecode)]
  exact congrArg closeCycle hexec

/-- Settles O14: the no-operation leaves the cycle running, so that its end ticks. -/
theorem unrecognisedWordIsNoOp : Obligations.UnrecognisedWordIsNoOp := by
  intro s w hr hlo hhi hdecode
  rw [step_unrecognised hr (inWindow_of_bounds hlo hhi) (decodeWord_fetchWord_of_error hdecode),
    endCycle_of_running rfl]
  rfl

/-- Settles O15: nothing is read, so that only `raise` and the cleared pulse tell the two states apart. -/
theorem fetchOutsideWindowHalts : Obligations.FetchOutsideWindowHalts := by
  intro s hr hpc
  have hw : s.inWindow = false := by
    rw [Bool.eq_false_iff, ne_eq, inWindow_iff]
    omega
  have ha : s.pc.toNat < 2 ^ 17 := s.pc.isLt.trans (by decide)
  exact ⟨_, step_outside hr hw, latchedFrom_raise ha rfl rfl, fun _ _ => rfl, fun _ => rfl, ⟨rfl, fun _ => rfl⟩,
    ⟨rfl, rfl, rfl⟩, rfl, rfl⟩

/-- Settles O16, by induction on the number of steps. -/
theorem haltedForGood : Obligations.HaltedForGood := by
  intro s n hr
  induction n with
  | zero => exact run_zero s
  | succ n ih => rw [run_succ n (step_halted hr), ih]

/-! ### The key wait (44_io.md R165, 60_exceptions.md R190) -/

/-- The state in which `s` awaits a key after `n` unanswered polls, `polls` being the answers still to come. -/
def awaitingKeyAfter (s : State) (n : Nat) (polls : List (Option Nibble)) : State :=
  { s with
    unrecognised := false, run := .awaitingKey,
    ports := { s.ports with polls := polls, trace := s.ports.trace ++ List.replicate n (.pollKey none) } }

theorem pollKey_of_polls_cons {s : State} {a : Option Nibble} {rest : List (Option Nibble)}
    (h : s.ports.polls = a :: rest) :
    s.pollKey = (a, s.setPorts { s.ports with polls := rest, trace := s.ports.trace ++ [.pollKey a] }) := by
  unfold State.pollKey
  rw [h]
  rfl

section
variable {s : State} {x : Reg} {rest : List (Option Nibble)}

/-- A step at an LD Vx,K whose poll is settled is that poll taken. -/
theorem step_ldVxK {a : Option Nibble} (hr : s.run ≠ .halted) (hw : s.inWindow = true)
    (hd : decodeWord s.fetchWord = .instr (.ldVxK x)) (hp : s.ports.polls = a :: rest) :
    step s = .next ((s.beginCycle.setPorts
      { s.ports with polls := rest, trace := s.ports.trace ++ [.pollKey a] }).takeKey x a).endCycle := by
  rw [step_execState hr hw hd, execState_ldVxK (pollKey_of_polls_cons (s := s.beginCycle) hp)]
  rfl

/-- An unanswered poll leaves everything but `RUN`, the pulse, the polls and the trace. -/
theorem step_unanswered (hr : s.run ≠ .halted) (hw : s.inWindow = true)
    (hd : decodeWord s.fetchWord = .instr (.ldVxK x)) (hp : s.ports.polls = none :: rest) :
    step s = .next (awaitingKeyAfter s 1 rest) := by
  rw [step_ldVxK hr hw hd hp, endCycle_of_not_running (by exact nofun)]
  rfl

/-- Waiting on from a wait is one wait. -/
theorem awaitingKeyAfter_awaitingKeyAfter (n : Nat) (polls polls' : List (Option Nibble)) :
    awaitingKeyAfter (awaitingKeyAfter s 1 polls) n polls' = awaitingKeyAfter s (n + 1) polls' := by
  simp [awaitingKeyAfter, List.replicate_succ]

/-- Any number of unanswered polls, at least one, comes to one wait. -/
theorem run_unanswered {n : Nat} (hr : s.run ≠ .halted) (hw : s.inWindow = true)
    (hd : decodeWord s.fetchWord = .instr (.ldVxK x)) (hp : s.ports.polls = List.replicate (n + 1) none ++ rest) :
    Host.Core.run Sys2Proof.core (n + 1) s = .next (awaitingKeyAfter s (n + 1) rest) := by
  induction n generalizing s with
  | zero => rw [run_succ 0 (step_unanswered hr hw hd hp), run_zero]; rfl
  | succ n ih =>
    have hp' : s.ports.polls = none :: (List.replicate (n + 1) none ++ rest) := hp
    rw [run_succ (n + 1) (step_unanswered hr hw hd hp'), ih (s := awaitingKeyAfter s 1 _) nofun hw hd rfl,
      awaitingKeyAfter_awaitingKeyAfter]

/-- The state the key that ends a wait of `n` unanswered polls leaves, before the tick. -/
def answeredAfter (s : State) (x : Reg) (n : Nat) (k : Nibble) (rest : List (Option Nibble)) : State :=
  ((awaitingKeyAfter s n rest).record (.pollKey (some k))).takeKey x (some k)

/-- The whole wait, its last poll answered, is one completed cycle. -/
theorem run_answered {n : Nat} {k : Nibble} (hr : s.run ≠ .halted) (hw : s.inWindow = true)
    (hd : decodeWord s.fetchWord = .instr (.ldVxK x)) (hp : s.ports.polls = List.replicate n none ++ some k :: rest) :
    Host.Core.run Sys2Proof.core (n + 1) s = .next (answeredAfter s x n k rest).tick := by
  induction n generalizing s with
  | zero =>
    rw [run_succ 0 (step_ldVxK hr hw hd hp), run_zero, endCycle_of_running rfl]
    rw [answeredAfter, awaitingKeyAfter, List.replicate_zero, List.append_nil]
    rfl
  | succ n ih =>
    have hp' : s.ports.polls = none :: (List.replicate n none ++ some k :: rest) := hp
    rw [run_succ (n + 1) (step_unanswered hr hw hd hp'), ih (s := awaitingKeyAfter s 1 _) nofun hw hd rfl,
      answeredAfter, awaitingKeyAfter_awaitingKeyAfter]
    rfl

end

/-- Settles O20: the unanswered polls come to one wait, and the answered one completes the cycle. -/
theorem keyWaitIsOneCycle : Obligations.KeyWaitIsOneCycle := by
  intro s x n k rest hr hlo hhi hdecode hp
  have hw := inWindow_of_bounds hlo hhi
  have hd := decodeWord_fetchWord_of_ok hdecode
  refine ⟨fun hn => ?_, answeredAfter s x n k rest, run_answered hr hw hd hp, rfl, rfl, ?_, fun r hmem => ?_,
    fun _ => rfl, ⟨rfl, fun _ => rfl⟩, ⟨rfl, rfl, rfl⟩, rfl, rfl, rfl, rfl, rfl, rfl, rfl, rfl⟩
  · obtain ⟨m, rfl⟩ := Nat.exists_eq_add_one.mpr hn
    exact run_unanswered hr hw hd hp
  · exact takeKey_some_readV_toNat ..
  · exact takeKey_some_readV_other _ _ (List.ne_of_not_mem_cons hmem)

end Sys2Proof.Machine.Proofs

/-! The timers (60_exceptions.md R185, R186; 43_timers.md R150 to R153) and the reset values (10_state.md R30). -/

namespace Sys2Proof.Machine.Proofs

open Sys2Proof.Machine.Laws

/-! ### One tick, as numbers -/

theorem tick_tickcnt_toNat (s : State) : s.tick.tickcnt.toNat = (s.tickcnt.toNat + 1) % 8 := by
  rcases tick_spec s with ⟨h, e⟩ | ⟨h, d, b, e, -⟩ <;> rw [e]
  · exact BitVec.toNat_add s.tickcnt 1
  · rw [h]
    rfl

/-- A timer counted down by one unless it is zero. -/
theorem decrement_toNat (b : Byte) : (if b = 0 then 0 else b - 1).toNat = b.toNat - 1 := by
  split <;> bv_omega

/-- A timer loses one when the divider wraps, and stops at zero. -/
theorem tick_timers_toNat (s : State) : s.tick.dt.toNat = s.dt.toNat - (s.tickcnt.toNat + 1) / 8 ∧
    s.tick.st.toNat = s.st.toNat - (s.tickcnt.toNat + 1) / 8 := by
  have hlt := s.tickcnt.isLt
  rcases tick_spec s with ⟨h, e⟩ | ⟨h, d, b, e, hd, hb⟩ <;> rw [e]
  · rw [timerDivider] at h
    have h0 : (s.tickcnt.toNat + 1) / 8 = 0 := by omega
    rw [h0]
    exact ⟨rfl, rfl⟩
  · rw [h, setST_dt, setDt_dt, setST_st, hd, hb]
    exact ⟨decrement_toNat s.dt, decrement_toNat s.st⟩

/-! ### Any number of ticks -/

theorem iterate_tick_toNat (s : State) (k : Nat) :
    (State.tick^[k] s).tickcnt.toNat = (s.tickcnt.toNat + k) % 8 ∧
    (State.tick^[k] s).dt.toNat = s.dt.toNat - (s.tickcnt.toNat + k) / 8 ∧
    (State.tick^[k] s).st.toNat = s.st.toNat - (s.tickcnt.toNat + k) / 8 := by
  have hlt : s.tickcnt.toNat < 8 := s.tickcnt.isLt
  induction k with
  | zero =>
    simp only [Function.iterate_zero, id]
    omega
  | succ k ih =>
    obtain ⟨hc, hd, hs⟩ := ih
    obtain ⟨hd', hs'⟩ := tick_timers_toNat (State.tick^[k] s)
    rw [Function.iterate_succ_apply', tick_tickcnt_toNat, hd', hs', hc, hd, hs]
    omega

/-- Settles O21: the counts after `k` ticks, and the bounds of R153 read off them for any phase of the divider. -/
theorem timersCountCompletedCycles : Obligations.TimersCountCompletedCycles := by
  refine ⟨iterate_tick_toNat, fun s h0 => ⟨fun k hk hz => ?_, ?_⟩⟩
  all_goals
    have hpos : s.dt.toNat ≠ 0 := fun h => h0 (BitVec.eq_of_toNat_eq h)
    have hlt : s.tickcnt.toNat < 8 := s.tickcnt.isLt
  · have hd := (iterate_tick_toNat s k).2.1
    rw [hz, show (0 : Byte).toNat = 0 from rfl] at hd
    omega
  · refine BitVec.eq_of_toNat_eq ?_
    rw [(iterate_tick_toNat s _).2.1, show (0 : Byte).toNat = 0 from rfl]
    omega

/-- The audio edge of a count down: only from 1 does a timer reach zero. -/
theorem audioEdge_decrement (b : Byte) :
    audioEdge b (if b = 0 then 0 else b - 1) = if b = 1 then [.stopTone] else [] := by
  by_cases h0 : b = 0
  · subst h0; rfl
  by_cases h1 : b = 1
  · subst h1; rfl
  have hne : b - 1 ≠ 0 := by bv_omega
  rw [if_neg h0, if_neg h1, audioEdge, if_neg fun h => h0 h.1, if_neg fun h => hne h.2]

theorem tickcnt_eq_seven_iff (s : State) : s.tickcnt = 7 ↔ s.tickcnt.toNat + 1 = timerDivider := by
  rw [BitVec.toNat_eq]
  simp [timerDivider]

theorem tick_ports (s : State) : s.tick.ports =
    { s.ports with trace := s.ports.trace ++ (if s.tickcnt = 7 ∧ s.st = 1 then [.stopTone] else []) } := by
  rcases tick_spec s with ⟨h, e⟩ | ⟨h, d, b, e, -, hb⟩ <;> rw [e]
  · rw [if_neg fun hc => h ((tickcnt_eq_seven_iff s).mp hc.1), List.append_nil]
    rfl
  · simp only [setST_ports, setDt_st, setTickcnt_st, setDt_ports, setTickcnt_ports, hb, audioEdge_decrement,
      (tickcnt_eq_seven_iff s).mpr h, true_and]

/-- Settles O22: the frame of a tick, and the one count down that stops a tone. -/
theorem tickEmitsStopTone : Obligations.TickEmitsStopTone := by
  refine fun s => ⟨tick_ports s, fun r _ => ?_, fun a => ?_, ⟨tick_sp s, fun k => ?_⟩,
    ⟨tick_run s, tick_fault s, tick_faultInfo s, tick_unrecognised s⟩, tick_pc s, tick_i s⟩
  · simp only [State.readV, tick_v]
  · simp only [State.byteAt, tick_mem]
  · simp only [State.readSlot, tick_stack]

/-- Settles O52: three single writes, that of ST with its audio edge. -/
theorem timerTransfers : Obligations.TimerTransfers := by
  refine fun s x => ⟨⟨_, exec_eq _ s, readV_writeV_same s x s.dt, rfl, ?_⟩, ⟨_, exec_eq _ s, rfl, rfl, ?_⟩,
    ⟨_, exec_eq _ s, rfl, rfl, rfl, ?_⟩⟩
  · exact onlyRegs_advance (onlyRegs_writeV s.dt (onlyRegs_refl [x] s) (List.mem_singleton_self x))
  · exact onlyRegs_refl [] s
  · exact onlyRegs_refl [] s

/-! ### Reset -/

/-- Settles O8: the registers are zero, and Memory reads as the glyph table and zeros above it. -/
theorem resetValues : Obligations.ResetValues := by
  refine ⟨rfl, fun r => ?_, rfl, rfl, rfl, rfl, fun k => ?_, rfl, rfl, rfl, rfl, rfl, fun a ha => ?_, rfl⟩
  · simp [State.readV, State.reset]
  · simp [State.readSlot, State.reset]
  · exact List.getD_eq_default _ _ ha

/-- Settles O9: a reset is the reset state with the host's side put back. -/
theorem resetCommandRestoresEverything : Obligations.ResetCommandRestoresEverything :=
  fun _ => ⟨rfl, rfl, rfl, rfl, rfl, rfl, rfl, rfl⟩

end Sys2Proof.Machine.Proofs

/-! The instructions that write general registers, PC, I or the stack and nothing else, each as its writes: 41_alu.md,
40_flow.md, 42_index_memory.md R140 to R142. -/

namespace Sys2Proof.Machine.Proofs

open Sys2Proof.Machine.Laws

/-! ### The ALU (41_alu.md R120 to R131) -/

/-- An ALU function without a flag writes its destination and PC. -/
theorem aluStep_of_no_flag {s : State} {fn : AluFn} {x : Reg} {b r : Byte} (h : alu fn (s.readV x) b = (r, none)) :
    (s.aluStep fn x b).readV x = r ∧ (s.aluStep fn x b).pc = s.pc + 2 ∧ OnlyRegs [x] s (s.aluStep fn x b) := by
  rw [State.aluStep, h]
  exact ⟨readV_writeV_same s x r, rfl, onlyRegs_advance (onlyRegs_writeV r (onlyRegs_refl [x] s) (by simp))⟩

/-- An ALU function with a flag writes its destination, then VF with the flag, and PC. -/
theorem aluStep_of_flag {s : State} {fn : AluFn} {x : Reg} {b r : Byte} {f : Bool}
    (h : alu fn (s.readV x) b = (r, some f)) :
    (x ≠ 15 → (s.aluStep fn x b).readV x = r) ∧ (s.aluStep fn x b).readV 15 = flagByte f ∧
    (s.aluStep fn x b).pc = s.pc + 2 ∧ OnlyRegs [x, 15] s (s.aluStep fn x b) := by
  rw [State.aluStep, h]
  refine ⟨fun hx => ?_, readV_writeV_same _ vf _, rfl, ?_⟩
  · exact (readV_writeV_other _ _ hx).trans (readV_writeV_same s x r)
  · exact onlyRegs_advance (onlyRegs_writeV _ (onlyRegs_writeV _ (onlyRegs_refl _ s) (by simp)) (by simp))

/-- The same with the result and the flag read as numbers. -/
theorem aluStep_of_flag_toNat {s : State} {fn : AluFn} {x : Reg} {b r : Byte} {f : Bool} {n m : Nat}
    (h : alu fn (s.readV x) b = (r, some f)) (hr : r.toNat = n) (hf : (flagByte f).toNat = m) :
    (x ≠ 15 → ((s.aluStep fn x b).readV x).toNat = n) ∧ ((s.aluStep fn x b).readV 15).toNat = m ∧
    (s.aluStep fn x b).pc = s.pc + 2 ∧ OnlyRegs [x, 15] s (s.aluStep fn x b) := by
  obtain ⟨hres, hflag, hframe⟩ := aluStep_of_flag h
  exact ⟨fun hx => (congrArg BitVec.toNat (hres hx)).trans hr, (congrArg BitVec.toNat hflag).trans hf, hframe⟩

/-- Settles O33: the adder that writes no flag. -/
theorem addImmediate : Obligations.AddImmediate := by
  intro s x b
  obtain ⟨hres, hframe⟩ := aluStep_of_no_flag (s := s) (fn := .addNoFlag) (x := x) (b := b) rfl
  exact ⟨_, exec_eq _ s, (congrArg BitVec.toNat hres).trans (BitVec.toNat_add _ _), hframe⟩

/-- Settles O34: four ALU functions without a flag, the three bitwise ones bit by bit. -/
theorem copyAndLogic : Obligations.CopyAndLogic := by
  intro s x y
  obtain ⟨hmove, hmoveF⟩ := aluStep_of_no_flag (s := s) (fn := .move) (x := x) (b := s.readV y) rfl
  obtain ⟨hor, horF⟩ := aluStep_of_no_flag (s := s) (fn := .or) (x := x) (b := s.readV y) rfl
  obtain ⟨hand, handF⟩ := aluStep_of_no_flag (s := s) (fn := .and) (x := x) (b := s.readV y) rfl
  obtain ⟨hxor, hxorF⟩ := aluStep_of_no_flag (s := s) (fn := .xor) (x := x) (b := s.readV y) rfl
  refine ⟨⟨_, exec_eq _ s, hmove, hmoveF⟩, ⟨_, exec_eq _ s, fun k => ?_, horF⟩, ⟨_, exec_eq _ s, fun k => ?_, handF⟩,
    ⟨_, exec_eq _ s, fun k => ?_, hxorF⟩⟩
  · exact (congrArg (BitVec.getLsbD · k) hor).trans BitVec.getLsbD_or
  · exact (congrArg (BitVec.getLsbD · k) hand).trans BitVec.getLsbD_and
  · exact (congrArg (BitVec.getLsbD · k) hxor).trans BitVec.getLsbD_xor

/-- Settles O36: the difference modulo 256, and the comparison that is the absence of a borrow. -/
theorem subtractRegisters : Obligations.SubtractRegisters := by
  intro s x y
  have hsub : ∀ a b : Byte, (a - b).toNat = (a.toNat + 256 - b.toNat) % 256 := fun a b => by bv_omega
  exact ⟨⟨_, exec_eq _ s, aluStep_of_flag_toNat rfl (hsub _ _) (flagByte_noBorrow_toNat _ _)⟩,
    ⟨_, exec_eq _ s, aluStep_of_flag_toNat rfl (hsub _ _) (flagByte_noBorrow_toNat _ _)⟩⟩

/-- Settles O37: half and double modulo 256, and the bit each shifts out. -/
theorem shiftByOne : Obligations.ShiftByOne := by
  intro s x y
  have hshr : (s.readV x >>> 1).toNat = (s.readV x).toNat / 2 := by simp [Nat.shiftRight_eq_div_pow]
  have hshl : (s.readV x <<< 1).toNat = (s.readV x).toNat * 2 % 256 := by simp [Nat.shiftLeft_eq]
  exact ⟨⟨_, exec_eq _ s, aluStep_of_flag_toNat rfl hshr (flagByte_lowBit_toNat _)⟩,
    ⟨_, exec_eq _ s, aluStep_of_flag_toNat rfl hshl (flagByte_highBit_toNat _)⟩⟩

/-! ### Control transfer (40_flow.md R100 to R108) -/

theorem onlyRegs_setPc (s : State) (w : Word) : OnlyRegs [] s (s.setPc w) := onlyRegs_refl [] s

/-- Settles O39: one write of PC each, with the target zero-extended and not reduced. -/
theorem jumps : Obligations.Jumps :=
  fun s a => ⟨⟨_, exec_eq _ s, addrWord_toNat a, onlyRegs_setPc s _⟩,
    ⟨_, exec_eq _ s, addrWord_add_byteWord_toNat a _, onlyRegs_setPc s _⟩⟩

theorem execState_callAddr_ok {s : State} (a : Addr) (h : s.sp ≠ 15) :
    execState (.callAddr a) s = ((s.writeSlot s.sp (s.pc + 2)).setSp (s.sp + 1)).setPc (addrWord a) := by
  rcases execState_callAddr_cases a s with ⟨-, e⟩ | ⟨hfull, -⟩
  · exact e
  · exact absurd (BitVec.eq_of_toNat_eq hfull) h

theorem execState_ret_ok {s : State} (h : s.sp ≠ 0) :
    execState .ret s = (s.setSp (s.sp - 1)).setPc (s.readSlot (s.sp - 1)) := by
  rcases execState_ret_cases s with ⟨-, e⟩ | ⟨hempty, -⟩
  · exact e
  · exact absurd (BitVec.eq_of_toNat_eq hempty) h

/-- Settles O40: the free slot, SP and PC are written. -/
theorem callPushesReturnAddress : Obligations.CallPushesReturnAddress := by
  intro s a h
  refine ⟨_, exec_eq _ s, ?_⟩
  rw [execState_callAddr_ok a h]
  exact ⟨addrWord_toNat a, readSlot_writeSlot_same s s.sp _, show (s.sp + 1).toNat = _ by bv_omega,
    fun k hk => readSlot_writeSlot_other s _ hk, fun _ _ => rfl, fun _ => rfl, ⟨rfl, rfl, rfl⟩, ⟨rfl, rfl, rfl, rfl⟩,
    rfl, rfl⟩

/-- Settles O41: SP and PC are written, and no slot. -/
theorem retPopsReturnAddress : Obligations.RetPopsReturnAddress := by
  intro s h
  refine ⟨_, exec_eq _ s, ?_⟩
  rw [execState_ret_ok h]
  exact ⟨show (s.sp - 1).toNat + 1 = _ by bv_omega, rfl, fun _ => rfl, fun _ _ => rfl, fun _ => rfl, ⟨rfl, rfl, rfl⟩,
    ⟨rfl, rfl, rfl, rfl⟩, rfl, rfl⟩

/-- Settles O42: at its limit each is a fault and nothing else. -/
theorem stackLimitsHalt : Obligations.StackLimitsHalt := by
  refine ⟨fun s a h => ⟨_, exec_eq _ s, ?_⟩, fun s h => ⟨_, exec_eq _ s, ?_⟩⟩
  · rcases execState_callAddr_cases a s with ⟨hroom, -⟩ | ⟨-, e⟩
    · exact absurd (congrArg BitVec.toNat h) hroom
    · rw [e]
      exact raisedFrom_raise s (by decide)
  · rcases execState_ret_cases s with ⟨hsome, -⟩ | ⟨-, e⟩
    · exact absurd (congrArg BitVec.toNat h) hsome
    · rw [e]
      exact raisedFrom_raise s (by decide)

/-- Settles O43: the slot the RET reads is the one the CALL wrote, and SP is counted back. -/
theorem callThenRetReturns : Obligations.CallThenRetReturns := by
  intro s a h
  have hback : s.sp + 1 - 1 = s.sp := by bv_omega
  have hne : s.sp + 1 ≠ 0 := by bv_omega
  refine ⟨_, _, exec_eq _ s, exec_eq _ _, ?_⟩
  rw [execState_callAddr_ok a h, execState_ret_ok hne]
  simp only [setPc_sp, setSp_sp, setPc_readSlot, setSp_readSlot, hback, readSlot_writeSlot_same]
  exact ⟨rfl, fun k hk => readSlot_writeSlot_other s _ hk⟩

/-- Settles O44: each is one write of PC by its condition. -/
theorem registerSkips : Obligations.RegisterSkips := by
  intro s x y b
  refine ⟨⟨_, exec_eq _ s, onlyRegs_setPc s _, ?_⟩, ⟨_, exec_eq _ s, onlyRegs_setPc s _, ?_⟩,
    ⟨_, exec_eq _ s, onlyRegs_setPc s _, ?_⟩, ⟨_, exec_eq _ s, onlyRegs_setPc s _, ?_⟩⟩
  · exact if_congr beq_iff_eq rfl rfl
  · exact (if_congr bne_iff_ne rfl rfl).trans (ite_not ..)
  · exact if_congr beq_iff_eq rfl rfl
  · exact (if_congr bne_iff_ne rfl rfl).trans (ite_not ..)

/-! ### I (42_index_memory.md R140 to R142) -/

/-- The largest glyph offset is 255 * 5, so that it is not reduced. -/
theorem glyphAddr_toNat (b : Byte) : (glyphAddr b).toNat = b.toNat * 5 := by
  have := b.isLt
  rw [glyphAddr, BitVec.toNat_ofNat, glyphBytes]
  omega

/-- Settles O46: one write of I each, and the advance of PC. -/
theorem indexRegisterWrites : Obligations.IndexRegisterWrites := by
  intro s x a
  refine ⟨⟨_, exec_eq _ s, addrWord_toNat a, rfl, onlyRegs_refl [] s⟩, ⟨_, exec_eq _ s, ?_, rfl, onlyRegs_refl [] s⟩,
    ⟨_, exec_eq _ s, glyphAddr_toNat _, rfl, onlyRegs_refl [] s⟩⟩
  exact (BitVec.toNat_add ..).trans (by rw [byteWord_toNat])

end Sys2Proof.Machine.Proofs

/-! The instructions that use a port (44_io.md R160 to R165), each from what its port call can do. -/

namespace Sys2Proof.Machine.Proofs

open Sys2Proof.Machine.Laws

/-- The frame of a port call and the register writes after it. -/
theorem onlyRegsAndPorts_setPorts (l : List Reg) (s : State) (q : Ports) : OnlyRegsAndPorts l s (s.setPorts q) :=
  ⟨fun _ _ => rfl, fun _ => rfl, ⟨rfl, fun _ => rfl⟩, ⟨rfl, rfl, rfl⟩, ⟨rfl, rfl, rfl, rfl⟩, rfl⟩

theorem onlyRegsAndPorts_writeV {l : List Reg} {s t : State} {x : Reg} (b : Byte) (h : OnlyRegsAndPorts l s t)
    (hx : x ∈ l) : OnlyRegsAndPorts l s (t.writeV x b) := by
  obtain ⟨hregs, hrest⟩ := h
  refine ⟨fun r hr => ?_, hrest⟩
  rw [readV_writeV_other t b (ne_of_mem_of_not_mem hx hr).symm, hregs r hr]

/-- The frame leaves PC free. -/
theorem onlyRegsAndPorts_setPc {l : List Reg} {s t : State} (w : Word) (h : OnlyRegsAndPorts l s t) :
    OnlyRegsAndPorts l s (t.setPc w) := h

/-! ### Input and Random -/

/-- Settles O45: one key test, and a skip by its answer. -/
theorem keySkips : Obligations.KeySkips := by
  intro s x
  obtain ⟨d, q, e, ht, hs, hk, hp, hr, hheld⟩ := isKeyDown_spec s (s.readV x)
  refine ⟨⟨_, d, exec_eq _ s, ?_⟩, ⟨_, d, exec_eq _ s, ?_⟩⟩
  · rw [execState_skpVx e]
    exact ⟨ht, rfl, onlyRegsAndPorts_setPc _ (onlyRegsAndPorts_setPorts [] s q), hs, hk, hp, hr, hheld⟩
  · rw [execState_sknpVx e]
    exact ⟨ht, by cases d <;> rfl, onlyRegsAndPorts_setPc _ (onlyRegsAndPorts_setPorts [] s q), hs, hk, hp, hr, hheld⟩

/-- Settles O55: one call, and Vx written with what it answers, masked. -/
theorem randomByteIsMasked : Obligations.RandomByteIsMasked := by
  intro s x b
  obtain ⟨r, q, e, ht, hs, hk, hp, hr, hsettled⟩ := randomByte_spec s
  refine ⟨_, r, exec_eq _ s, ?_⟩
  rw [execState_rndVxByte e]
  refine ⟨ht, readV_writeV_same _ x _, rfl, ?_, hs, hk, hp, fun c rest hc => ⟨hsettled c rest hc, ?_⟩⟩
  · exact onlyRegsAndPorts_setPc _
      (onlyRegsAndPorts_writeV _ (onlyRegsAndPorts_setPorts [x] s q) (List.mem_singleton_self x))
  · exact hr.trans (by rw [hc, List.tail_cons])

/-- Taking an answer writes Vx, `RUN` and PC at most. -/
theorem takeKey_frame (s : State) (x : Reg) (a : Option Nibble) :
    SameMem s (s.takeKey x a) ∧ SameStack s (s.takeKey x a) ∧ SameTimers s (s.takeKey x a) ∧
    (s.takeKey x a).i = s.i ∧ (s.takeKey x a).fault = s.fault ∧
    (s.takeKey x a).faultInfo = s.faultInfo ∧ (s.takeKey x a).unrecognised = s.unrecognised := by
  cases a <;> exact ⟨fun _ => rfl, ⟨rfl, fun _ => rfl⟩, ⟨rfl, rfl, rfl⟩, rfl, rfl, rfl, rfl⟩

/-- Settles O60: one poll, and its answer taken. -/
theorem keyWaitPollsOnce : Obligations.KeyWaitPollsOnce := by
  intro s x
  obtain ⟨a, q, e, ht, hs, hk, hp, hr, hsettled⟩ := pollKey_spec s
  refine ⟨_, a, exec_eq _ s, ?_⟩
  rw [execState_ldVxK e]
  have hports := takeKey_ports (s.setPorts q) x a
  obtain ⟨hmem, hstack, htimers, hi, hfault, hinfo, hpulse⟩ := takeKey_frame (s.setPorts q) x a
  refine ⟨(congrArg Ports.trace hports).trans ht, ?_, ?_, fun b rest hb => ⟨hsettled b rest hb, ?_⟩, hmem, hstack,
    htimers, hi, hfault, hinfo, hpulse, (congrArg Ports.screen hports).trans hs, (congrArg Ports.keys hports).trans hk,
    (congrArg Ports.randoms hports).trans hr⟩
  · rintro k rfl
    exact ⟨takeKey_some_readV_toNat _ x k, rfl, rfl,
      fun r hmem => takeKey_some_readV_other _ k (List.ne_of_not_mem_cons hmem)⟩
  · rintro rfl
    exact ⟨rfl, rfl, fun _ _ => rfl⟩
  · rw [hports, setPorts_ports, hp, hb, List.tail_cons]

/-! ### Display -/

theorem pixel_blank (px py : Nat) : Screen.blank.pixel px py = false := by
  simp [Screen.pixel, Screen.blank, displayH, Nat.mod_lt]

/-- Settles O54: every row of the Display is written with zero. -/
theorem referenceDisplayClears : Obligations.ReferenceDisplayClears := by
  refine fun s => ⟨_, exec_cls s, fun h => ?_, fun f h => ⟨Screen.blank, ?_, pixel_blank⟩⟩
  · exact congrArg (Option.map _) h
  · exact congrArg (Option.map _) h

/-- Settles O56: the rows all lie in Memory, so that VF is written with their collision flag. -/
theorem spriteDrawn : Obligations.SpriteDrawn := by
  intro s x y n hm
  obtain ⟨cs, q, ht, hk, hp, hr, hs, hz, ⟨-, hl, e⟩ | ⟨⟨h0, hpast⟩, -⟩⟩ := execState_drwVxVyN_cases x y n s
  · refine ⟨_, cs, exec_eq _ s, hl, ?_⟩
    rw [e]
    refine ⟨ht, ?_, rfl, ?_, hk, hp, hr, hs, hz⟩
    · exact (congrArg BitVec.toNat (readV_writeV_same _ vf _)).trans (flagByte_any_toNat cs)
    · exact onlyRegsAndPorts_setPc _
        (onlyRegsAndPorts_writeV _ (onlyRegsAndPorts_setPorts [15] s q) (List.mem_singleton_self _))
  · exact absurd (hm.resolve_left h0) (Nat.not_le.mpr hpast)

/-- Settles O57: a row lies beyond Memory, so that the drawing ends in a fault and VF is not reached. -/
theorem spritePastMemoryHalts : Obligations.SpritePastMemoryHalts := by
  intro s x y n h0 hm
  obtain ⟨cs, q, ht, hk, hp, hr, hs, hz, ⟨hin, -⟩ | ⟨-, hl, e⟩⟩ := execState_drwVxVyN_cases x y n s
  · exact absurd (hin.resolve_left h0) (Nat.not_le.mpr hm)
  · refine ⟨_, cs, exec_eq _ s, hl, ?_⟩
    rw [e]
    exact ⟨latchedFrom_raise (max_effectiveAddr_lt s) rfl rfl, ht, fun _ _ => rfl, fun _ => rfl, ⟨rfl, fun _ => rfl⟩,
      ⟨rfl, rfl, rfl⟩, rfl, hk, hp, hr, hs, hz⟩

end Sys2Proof.Machine.Proofs

/-! The reference Display (20_memory.md R57): which pixels a row and a sprite strike, that drawing flips exactly those,
and that a collision is a struck pixel that was lit. -/

namespace Sys2Proof.Machine.Proofs

open Sys2Proof.Machine.Laws

/-! ### One pixel -/

theorem displayW_eq : displayW = 64 := rfl

theorem displayH_eq : displayH = 32 := rfl

theorem pixel_flip (f : Screen) (a b px py : Nat) :
    (f.flip a b).pixel px py = (f.pixel px py ^^ decide (px % 64 = a % 64 ∧ py % 32 = b % 32)) := by
  have ha : a % 64 < 64 := Nat.mod_lt _ (by decide)
  have hb : b % 32 < 32 := Nat.mod_lt _ (by decide)
  by_cases hrow : py % 32 = b % 32
  · simp [Screen.pixel, Screen.flip, displayW_eq, displayH_eq, hrow, ha, hb, eq_comm (a := a % 64)]
  · simp [Screen.pixel, Screen.flip, displayW_eq, displayH_eq, hrow, Ne.symm hrow]

/-- A Display is its 64 by 32 pixels. -/
theorem screen_ext {f g : Screen} (h : ∀ px py, f.pixel px py = g.pixel px py) : f = g := by
  obtain ⟨f⟩ := f
  obtain ⟨g⟩ := g
  congr 1
  refine Vector.ext fun py hpy => BitVec.eq_of_getLsbD_eq fun px hpx => ?_
  simpa [Screen.pixel, displayW_eq, displayH_eq, Nat.mod_eq_of_lt hpx, Nat.mod_eq_of_lt hpy, hpy] using h px py

/-! ### One row -/

/-- The first `n` bits of a row byte drawn at `(x, y)` strike the pixel: one of the bits that are set lands on it. -/
def rowStrikes (x y : Nat) (b : Byte) (n px py : Nat) : Bool :=
  decide (py % 32 = y % 32 ∧ ∃ k < n, px % 64 = (x + k) % 64 ∧ b.getLsbD (7 - k) = true)

/-- Bit `n` lands on no pixel an earlier one has struck, a row being shorter than the Display is wide. -/
theorem rowStrikes_succ (x y : Nat) (b : Byte) {n : Nat} (hn : n < 64) (px py : Nat) :
    rowStrikes x y b (n + 1) px py =
      (rowStrikes x y b n px py ^^ (b.getLsbD (7 - n) && decide (px % 64 = (x + n) % 64 ∧ py % 32 = y % 32))) := by
  simp only [rowStrikes, Nat.exists_lt_succ_right]
  by_cases hearlier : ∃ k < n, px % 64 = (x + k) % 64 ∧ b.getLsbD (7 - k) = true
  · have hnew : px % 64 ≠ (x + n) % 64 := by
      obtain ⟨k, hk, hpx, -⟩ := hearlier
      omega
    simp [hearlier, hnew]
  · cases b.getLsbD (7 - n) <;> simp [hearlier, Bool.and_comm]

theorem rowStrikes_eq_true_iff {x y : Nat} {b : Byte} {n px py : Nat} : rowStrikes x y b n px py = true ↔
    py % 32 = y % 32 ∧ ∃ k < n, px % 64 = (x + k) % 64 ∧ b.getLsbD (7 - k) = true :=
  decide_eq_true_iff

/-- A row flips the pixels it strikes and no other. -/
theorem drawBits_pixel (f : Screen) (x y : Nat) (b : Byte) {n : Nat} (hn : n ≤ 64) (px py : Nat) :
    (f.drawBits x y b n).2.pixel px py = (f.pixel px py ^^ rowStrikes x y b n px py) := by
  induction n with
  | zero => simp [Screen.drawBits, rowStrikes]
  | succ n ih =>
    rw [rowStrikes_succ x y b (by omega), ← Bool.xor_assoc, ← ih (by omega), Screen.drawBits]
    cases b.getLsbD (7 - n) with
    | false => simp
    | true => simp [pixel_flip]

/-- A row collides where it strikes a lit pixel: no bit sees a pixel an earlier one has flipped. -/
theorem drawBits_collision (f : Screen) (x y : Nat) (b : Byte) {n : Nat} (hn : n ≤ 64) :
    (f.drawBits x y b n).1 = true ↔ ∃ k < n, b.getLsbD (7 - k) = true ∧ f.pixel (x + k) y = true := by
  induction n with
  | zero => simp [Screen.drawBits]
  | succ n ih =>
    have hnew : rowStrikes x y b n (x + n) y = false := by
      rw [Bool.eq_false_iff, ne_eq, rowStrikes_eq_true_iff]
      rintro ⟨-, k, hk, hpx, -⟩
      omega
    have hold : (f.drawBits x y b n).2.pixel (x + n) y = f.pixel (x + n) y := by
      rw [drawBits_pixel f x y b (by omega), hnew, Bool.xor_false]
    rw [Nat.exists_lt_succ_right, ← ih (by omega), Screen.drawBits]
    cases b.getLsbD (7 - n) with
    | false => simp
    | true => simp [hold]

/-- Settles O58: the eight bits of the row byte, the coordinates of the statement being reduced already. -/
theorem referenceDisplayXors : Obligations.ReferenceDisplayXors := by
  intro f x y b
  refine ⟨fun px py hpx hpy => ?_, drawBits_collision f x.toNat y.toNat b (by decide)⟩
  have hstrike := rowStrikes_eq_true_iff (x := x.toNat) (y := y.toNat) (b := b) (n := 8) (px := px) (py := py)
  rw [Nat.mod_eq_of_lt hpx, Nat.mod_eq_of_lt hpy] at hstrike
  rw [← hstrike, Screen.drawByte, drawBits_pixel f _ _ b (by decide)]
  cases rowStrikes x.toNat y.toNat b 8 px py <;> simp

/-! ### A sprite -/

/-- The first `n` rows of a sprite at `(x, y)` strike the pixel, `rows` being its bytes. -/
def spriteStrikes (rows : Nat → Byte) (x y n px py : Nat) : Bool :=
  decide (∃ r < n, rowStrikes x (y + r) (rows r) 8 px py = true)

theorem spriteStrikes_eq_true_iff {rows : Nat → Byte} {x y n px py : Nat} :
    spriteStrikes rows x y n px py = true ↔ ∃ r < n, rowStrikes x (y + r) (rows r) 8 px py = true :=
  decide_eq_true_iff

/-- A row strikes no pixel of an earlier row, a sprite being less high than the Display. -/
theorem spriteStrikes_of_later_row {rows : Nat → Byte} {x y n px py : Nat} (hn : n < 32)
    (hpy : py % 32 = (y + n) % 32) : spriteStrikes rows x y n px py = false := by
  rw [Bool.eq_false_iff, ne_eq, spriteStrikes_eq_true_iff]
  rintro ⟨r, hr, hstrike⟩
  have := (rowStrikes_eq_true_iff.mp hstrike).1
  omega

theorem spriteStrikes_succ (rows : Nat → Byte) (x y : Nat) {n : Nat} (hn : n < 32) (px py : Nat) :
    spriteStrikes rows x y (n + 1) px py =
      (spriteStrikes rows x y n px py ^^ rowStrikes x (y + n) (rows n) 8 px py) := by
  cases hrow : rowStrikes x (y + n) (rows n) 8 px py with
  | false => simp only [spriteStrikes, Nat.exists_lt_succ_right, hrow, Bool.false_eq_true, or_false, Bool.xor_false]
  | true =>
    rw [spriteStrikes_of_later_row hn (rowStrikes_eq_true_iff.mp hrow).1]
    simp only [spriteStrikes, Nat.exists_lt_succ_right, hrow, or_true, decide_true, Bool.false_xor]

/-- The row coordinate DRW passes is not cut: 255 + 15 fits 9 bits. -/
theorem rowCoord_toNat (y : Byte) {r : Nat} (hr : r < 16) : (rowCoord y r).toNat = y.toNat + r := by
  have := y.isLt
  simp only [rowCoord, BitVec.toNat_add, BitVec.toNat_setWidth, BitVec.toNat_ofNat]
  omega

/-- What a sprite drawn on the Display `f` leaves and answers. -/
structure SpriteDrawnOn (f g : Screen) (rows : Nat → Byte) (x y n : Nat) (hit : Bool) : Prop where
  pixel : ∀ px py, g.pixel px py = (f.pixel px py ^^ spriteStrikes rows x y n px py)
  hit : hit = true ↔ ∃ r < n, ∃ k < 8, (rows r).getLsbD (7 - k) = true ∧ f.pixel (x + k) (y + r) = true

/-- One more row: it strikes and meets pixels no earlier row has changed. -/
theorem SpriteDrawnOn.succ {f g : Screen} {rows : Nat → Byte} {x y : Byte} {n : Nat} {hit : Bool} (hn : n < 16)
    (h : SpriteDrawnOn f g rows x.toNat y.toNat n hit) :
    SpriteDrawnOn f (g.drawByte x (rowCoord y n) (rows n)).2 rows x.toNat y.toNat (n + 1)
      (hit || (g.drawByte x (rowCoord y n) (rows n)).1) where
  pixel px py := by
    rw [spriteStrikes_succ rows _ _ (by omega), Screen.drawByte, drawBits_pixel _ _ _ _ (by decide), h.pixel,
      rowCoord_toNat y hn, Bool.xor_assoc]
  hit := by
    have hrow : ∀ k, g.pixel (x.toNat + k) (y.toNat + n) = f.pixel (x.toNat + k) (y.toNat + n) := fun k => by
      rw [h.pixel, spriteStrikes_of_later_row (by omega) rfl, Bool.xor_false]
    rw [Bool.or_eq_true, h.hit, Screen.drawByte, drawBits_collision _ _ _ _ (by decide), rowCoord_toNat y hn,
      Nat.exists_lt_succ_right (n := n)]
    simp only [hrow]

theorem drawByte_of_screen {s : State} {f : Screen} (h : s.ports.screen = some f) (x : Byte) (y : BitVec 9) (b : Byte) :
    ∃ q, s.drawByte x y b = ((f.drawByte x y b).1, s.setPorts q) ∧ q.screen = some (f.drawByte x y b).2 := by
  unfold State.drawByte
  rw [h]
  exact ⟨_, rfl, rfl⟩

/-- The rows of a sprite that lies in Memory, on an attached Display. -/
theorem drawRows_of_screen {s : State} {f : Screen} (h : s.ports.screen = some f) {a n : Nat} (cx cy : Byte)
    (hn : n ≤ 16) (hm : a + n ≤ memSize) :
    ∃ hit q g, s.drawRows a cx cy n = .ok (hit, s.setPorts q) ∧ q.screen = some g ∧
      SpriteDrawnOn f g (fun r => s.byteAt (a + r)) cx.toNat cy.toNat n hit := by
  induction n with
  | zero => exact ⟨false, s.ports, f, rfl, h, fun _ _ => by simp [spriteStrikes], by simp⟩
  | succ n ih =>
    obtain ⟨hit, q, g, e, hg, hdrawn⟩ := ih (by omega) (by omega)
    obtain ⟨q', e', hg'⟩ := drawByte_of_screen (s := s.setPorts q) hg cx (rowCoord cy n) (s.byteAt (a + n))
    have hdrawn' := hdrawn.succ (by omega)
    refine ⟨_, q', _, ?_, hg', hdrawn'⟩
    simp only [State.drawRows, e, memRead_ok _ (show a + n < memSize by omega), setPorts_byteAt, e']
    rfl

/-- DRW of a sprite that lies in Memory, on an attached Display. -/
theorem execState_drwVxVyN_of_screen {s : State} {f : Screen} (h : s.ports.screen = some f) (x y : Reg) {n : Nibble}
    (hm : s.effectiveAddr n.toNat ≤ memSize) :
    ∃ hit q g, execState (.drwVxVyN x y n) s = ((s.setPorts q).writeV vf (flagByte hit)).advance ∧
      q.screen = some g ∧
      SpriteDrawnOn f g (fun r => s.byteAt (s.effectiveAddr r)) (s.readV x).toNat (s.readV y).toNat n.toNat hit := by
  obtain ⟨hit, q, g, e, hg, hdrawn⟩ :=
    drawRows_of_screen h (a := s.effectiveAddr 0) (s.readV x) (s.readV y) n.isLt.le hm
  exact ⟨hit, q, g, by simp only [execState, exec, execDrwVxVyN, e], hg, hdrawn⟩

/-- A sprite drawn on what it has drawn gives back the first Display, and meets the pixels it lit. -/
theorem SpriteDrawnOn.twice {f g f' : Screen} {rows : Nat → Byte} {x y n : Nat} {hit hit' : Bool}
    (h : SpriteDrawnOn f g rows x y n hit) (h' : SpriteDrawnOn g f' rows x y n hit') :
    f' = f ∧ (hit' = true ↔
      ∃ r < n, ∃ k < 8, (rows r).getLsbD (7 - k) = true ∧ f.pixel (x + k) (y + r) = false) := by
  refine ⟨screen_ext fun px py => ?_, h'.hit.trans ?_⟩
  · rw [h'.pixel, h.pixel, Bool.xor_assoc, Bool.xor_self, Bool.xor_false]
  · have hlit : ∀ r < n, ∀ k < 8, (rows r).getLsbD (7 - k) = true →
        g.pixel (x + k) (y + r) = !f.pixel (x + k) (y + r) := fun r hr k hk hbit => by
      rw [h.pixel, spriteStrikes_eq_true_iff.mpr ⟨r, hr, rowStrikes_eq_true_iff.mpr ⟨rfl, k, hk, rfl, hbit⟩⟩,
        Bool.xor_true]
    refine exists_congr fun r => and_congr_right fun hr => exists_congr fun k => and_congr_right fun hk =>
      and_congr_right fun hbit => ?_
    rw [hlit r hr k hk hbit, Bool.not_eq_true']

/-- Settles O59: x and y are not VF, so that the second DRW draws the same sprite at the same place. -/
theorem spriteDrawnTwiceRestores : Obligations.SpriteDrawnTwiceRestores := by
  intro s x y n f hf hx hy hm
  obtain ⟨hit, q, g, e, hg, hdrawn⟩ := execState_drwVxVyN_of_screen hf x y hm
  have hx' : ((s.setPorts q).writeV vf (flagByte hit)).advance.readV x = s.readV x := readV_writeV_other _ _ hx
  have hy' : ((s.setPorts q).writeV vf (flagByte hit)).advance.readV y = s.readV y := readV_writeV_other _ _ hy
  obtain ⟨hit', q', f', e', hf', hdrawn'⟩ :=
    execState_drwVxVyN_of_screen (s := ((s.setPorts q).writeV vf (flagByte hit)).advance) hg x y hm
  rw [hx', hy'] at hdrawn'
  obtain ⟨rfl, hhit⟩ := hdrawn.twice hdrawn'
  refine ⟨_, _, exec_eq _ s, exec_eq _ _, ?_⟩
  rw [e, e', show (15 : Reg) = vf from rfl, advance_readV, readV_writeV_same, ← hhit]
  refine ⟨hf', ?_, ?_⟩ <;> cases hit' <;> simp [flagByte]

end Sys2Proof.Machine.Proofs
